-- ==== Sys2Proof/Word.lean ====
section
/-! DEFINITION. The word types of the block (00_scope.md R9): bytes, register addresses, values, and the
host command word. A frame is a byte sequence in transmission order: its head is sent or received first. -/

namespace Sys2Proof

/-- An unsigned 8-bit value, R9 (`u8`). -/
abbrev Byte := BitVec 8

/-- A 16-bit unsigned register address, R9 (`u16`). -/
abbrev RegAddr := BitVec 16

/-- A 32-bit two's-complement value, R9 (`i32`). -/
abbrev Value := BitVec 32

/-- The 64-bit host command word `HCW`, R84. -/
abbrev Hcw := BitVec 64

/-- A byte sequence in transmission order, R9. -/
abbrev Bytes := List Byte

end Sys2Proof
end

