-- ==== Sys2Proof/Config.lean ====
section
/-! DEFINITION. The configuration of the block (00_scope.md R7, R8) and its fixed constants.
A configuration is fixed for the life of a run (R20). The model takes it as data, so that every claim is for
every configuration; the field `cfg` of `State` carries it and no step writes it (log entry 1). -/

namespace Sys2Proof

/-! ## Fixed constants (R7, R74, R75, R77) -/

/-- The start marker of inbound frames, R75. -/
def startIn : Byte := 0x5C
/-- The start marker of outbound frames, R75. -/
def startOut : Byte := 0xC0
/-- The reserved byte of an inbound frame, R75. -/
def reservedByte : Byte := 0x00
/-- The ACK control byte, R74. -/
def ackByte : Byte := 0x06
/-- The NAK control byte, R74. -/
def nakByte : Byte := 0x15
/-- The checksum byte accepted in place of a computed 0x5C, R102. -/
def csAlias : Byte := 0xC5
/-- The register address of a padding record, R106. -/
def sentinel : RegAddr := 0xFFFF
/-- The one command value the source fixes, R77. -/
def cmdReadToken : Byte := 0x69

/-- Which pairs the destuff scan collapses: the whole frame from offset 1 (R105), or the payload only
(93_implementation_defined.md K1, K2). -/
inductive DestuffScope where
  | frame
  | payload
  deriving DecidableEq, Repr

/-- One entry `(reg, off, w, sgn)` of `AUX_FIELDS`, R7, R108. -/
structure AuxField where
  reg : RegAddr
  off : Nat
  w   : Nat
  sgn : Bool
  deriving DecidableEq, Repr

/-- The parameters of R7. A parameter that R7 gives a value has that value as its default here; the
capacities are `none` for the ∞ of R7, and `auxCmd` is `none` for ANY. -/
structure Config where
  bufCap       : Nat := 100
  qCap         : Option Nat
  evqCap       : Option Nat
  frameMax     : Nat
  primaryAddr  : Byte := 0x20
  auxAddr      : Byte
  auxCmd       : Option Byte
  auxFields    : List AuxField
  cmdBroadcast : Byte
  cmdReadResp  : Byte
  cmdWriteResp : Byte
  cmdWriteToken : Byte
  cmdReadReq   : Byte
  cmdWriteReq  : Byte
  tBroadcast   : Byte := 0x50
  tReadResp    : Byte := 0x06
  tAux         : Byte := 0x18
  destuffScope : DestuffScope := .frame
  deriving DecidableEq, Repr

namespace Config

/-- The five inbound command bytes of R8 (a). -/
def inboundCmds (c : Config) : List Byte :=
  [c.cmdBroadcast, c.cmdReadResp, c.cmdWriteResp, cmdReadToken, c.cmdWriteToken]

/-- No two bytes of a list are equal. -/
def distinct : List Byte → Bool
  | [] => true
  | b :: rest => !rest.contains b && distinct rest

/-- `EVQ_CAP ≥ 1`, R8 (f); ∞ is no bound. -/
def evqCapOk (c : Config) : Bool :=
  match c.evqCap with
  | none => true
  | some n => decide (1 ≤ n)

/-- Well-formedness of a configuration: the checks (a) to (f) of R8, and the types R7 gives `AUX_ADDR`
(one of 0x16, 0x19) and `AUX_FIELDS` (at most three entries). A model refuses any other (R8, P4, log entry 10). -/
def wf (c : Config) : Bool :=
  c.evqCapOk
    && distinct c.inboundCmds
    && decide (c.auxAddr ≠ c.primaryAddr)
    && c.auxFields.all (fun f => f.w == 1 || f.w == 2 || f.w == 4)
    && decide (6 ≤ c.bufCap)
    && decide (10 ≤ c.frameMax)
    && (c.auxAddr == 0x16 || c.auxAddr == 0x19)
    && decide (c.auxFields.length ≤ 3)

/-- PRESUMED and DESIGN CHOICE (log entry 1): the one concrete assignment the spec lists, the reference
command values G1 and the test assignment G3 of 93_implementation_defined.md, with the unbounded capacities
of 95_test_vectors.md and the least FRAME_MAX of R8. It makes `State.reset` and the decode sanity tests
concrete and is no claim about the device; every statement about behaviour is for every configuration. -/
def reference : Config where
  qCap := none
  evqCap := none
  frameMax := 10
  auxAddr := 0x19
  auxCmd := some 0x60
  auxFields := [⟨0x0001, 0, 2, true⟩, ⟨0x0002, 2, 2, true⟩, ⟨0x0003, 4, 1, false⟩]
  cmdBroadcast := 0x68
  cmdReadResp := 0x6A
  cmdWriteResp := 0x6C
  cmdWriteToken := 0x6B
  cmdReadReq := 0x69
  cmdWriteReq := 0x6B

end Config

end Sys2Proof
end

