-- ==== Sys2Proof/Machine/Types.lean ====
section
/-! DEFINITION. The data the block handles: frame kinds, arbiter states, events, host responses, error classes
(10_state.md R21, R24 to R26; 30_encoding.md R78, R87, R88; 60_exceptions.md R220) and the environment's inputs
(10_state.md R30, 20_memory.md R54, R57). Codes no rule produces (93_implementation_defined.md E6) are
unrepresentable (log entry 19). -/

namespace Sys2Proof

/-- FrameKind, R78. -/
inductive FrameKind where
  | broadcast
  | readResp
  | writeResp
  | readToken
  | writeToken
  | auxBroadcast
  | other
  deriving DecidableEq, Repr

/-- The 3-bit code of a FrameKind, R78. Code 7 is never produced. -/
def FrameKind.code : FrameKind → BitVec 3
  | .broadcast => 0
  | .readResp => 1
  | .writeResp => 2
  | .readToken => 3
  | .writeToken => 4
  | .auxBroadcast => 5
  | .other => 6

/-- The kinds `decodeFrame` takes: every kind but the two tokens, R110. -/
inductive DataKind where
  | broadcast
  | readResp
  | writeResp
  | auxBroadcast
  | other
  deriving DecidableEq, Repr

/-- A data kind as a FrameKind. -/
def DataKind.kind : DataKind → FrameKind
  | .broadcast => .broadcast
  | .readResp => .readResp
  | .writeResp => .writeResp
  | .auxBroadcast => .auxBroadcast
  | .other => .other

/-- The data kind of a FrameKind, none for a token: the branch of R147 and R148. -/
def FrameKind.toData : FrameKind → Option DataKind
  | .broadcast => some .broadcast
  | .readResp => some .readResp
  | .writeResp => some .writeResp
  | .readToken => none
  | .writeToken => none
  | .auxBroadcast => some .auxBroadcast
  | .other => some .other

/-- The result of `classify`, R103 (90_conflicts.md C4: four results). -/
inductive Verdict where
  | incomplete
  | invalid
  | checksumFailure
  | valid (kind : FrameKind)
  deriving DecidableEq, Repr

/-- The arbiter state register, R21. -/
inductive ArbState where
  | waitStart
  | waitData
  | okMessage
  | crcFailure
  | readTokenReceived
  | writeTokenReceived
  | deliver
  | transportError
  | stopped
  deriving DecidableEq, Repr

/-- The 4-bit code of an arbiter state, R21. Codes 0x9 to 0xF are never held. -/
def ArbState.code : ArbState → BitVec 4
  | .waitStart => 0x0
  | .waitData => 0x1
  | .okMessage => 0x2
  | .crcFailure => 0x3
  | .readTokenReceived => 0x4
  | .writeTokenReceived => 0x5
  | .deliver => 0x6
  | .transportError => 0x7
  | .stopped => 0x8

/-- The transport-failure cause `ecause`, R26. -/
inductive Cause where
  | rx
  | tx
  deriving DecidableEq, Repr

/-- The 1-bit code of a cause, R26: 0 is RX, 1 is TX. -/
def Cause.code : Cause → BitVec 1
  | .rx => 0
  | .tx => 1

/-- The error classes, R220. -/
inductive ErrorClass where
  | framingNoise
  | checksumFailure
  | decodeRange
  | transport
  deriving DecidableEq, Repr

/-- The code of an error class, R220. -/
def ErrorClass.code : ErrorClass → Nat
  | .framingNoise => 1
  | .checksumFailure => 2
  | .decodeRange => 3
  | .transport => 4

/-- RegisterValue, R13 and R88: a register address and a signed value held as its 32 bits. -/
structure RegValue where
  addr  : RegAddr
  value : Value
  deriving DecidableEq, Repr

/-- The body of a FRAME event, R88 (log entry 24). -/
inductive Body where
  | regs (rs : List RegValue)
  | ack (b : Bool)
  | raw (f : Bytes)
  deriving DecidableEq, Repr

/-- An event record, R88. -/
inductive Event where
  | frame (kind : FrameKind) (body : Body)
  | decodeError (kind : FrameKind)
  | transportError (cause : Cause)
  deriving DecidableEq, Repr

/-- The 2-bit type tag of an event, R88. Type 3 is never produced. -/
def Event.typeCode : Event → BitVec 2
  | .frame _ _ => 0
  | .decodeError _ => 1
  | .transportError _ => 2

/-- The status of a host command, R87. -/
inductive HostStatus where
  | ok
  | busy
  | qfull
  | illegal
  | empty
  deriving DecidableEq, Repr

/-- The 3-bit status code, R87. Codes 5 to 7 are never returned. -/
def HostStatus.code : HostStatus → BitVec 3
  | .ok => 0
  | .busy => 1
  | .qfull => 2
  | .illegal => 3
  | .empty => 4

/-- The data of a host response: none (`-`), the STATUS word, a built frame, or a popped event, R181 to R188. -/
inductive RespData where
  | none
  | word (w : BitVec 32)
  | frame (f : Bytes)
  | event (e : Event)
  deriving DecidableEq, Repr

/-- The response of a host command, R84. -/
structure Response where
  status : HostStatus
  data   : RespData
  deriving DecidableEq, Repr

/-- One RX input DEV offers, R30. -/
inductive RxInput where
  | byte (b : Byte)
  | fail
  deriving DecidableEq, Repr

/-- DEV's answer to a TX write, R54: TxOk, or TxFail with the number of bytes of the sequence that were
sent. Every prefix of the sequence is some count, none and all of it included (log entry 22). -/
inductive TxAnswer where
  | ok
  | fail (sent : Nat)
  deriving DecidableEq, Repr

/-- A step of DEV (R3): it offers an RX input behind those waiting at the port, says how it will answer a TX
write, or takes back what it offered (R145: what it offers after a reconnect is its free choice, log entry 3). -/
inductive DevMove where
  | offer (inp : RxInput)
  | answer (a : TxAnswer)
  | withdraw
  deriving DecidableEq, Repr

/-- Which agent moves (R3, R57): ARB; HOST or LSN with a command word and the FRAME side data (R84, R191);
or DEV (log entries 2 and 18). -/
inductive Move where
  | arb
  | host (hcw : Hcw) (frame : Bytes)
  | dev (d : DevMove)
  deriving DecidableEq, Repr

end Sys2Proof
end

