-- ==== Sys2Proof/Syntax.lean ====
section
/-! DEFINITION. The block's instructions: one constructor for each row of spec/opcode_table.json. Host commands
(R84, R85) carry their HCW fields and the FRAME side data; inbound frames (R70) carry their variable fields;
outbound requests (R73) carry the address and value fields. -/

namespace Sys2Proof

/-- The variable fields of an inbound frame, R70. The marker and the reserved byte are constants, and the
declared length `N` is the payload's length. -/
structure InFrame where
  addr    : Byte
  cmd     : Byte
  payload : Bytes
  cs      : Byte
  deriving DecidableEq, Repr

/-- The rows of spec/opcode_table.json. -/
inductive Instr where
  | connect
  | disconnect
  | enqRead (frame : Bytes)
  | enqWrite (frame : Bytes)
  | buildRead (addr : RegAddr)
  | buildWrite (addr : RegAddr) (value : Value) (wcode : BitVec 2) (sgn : Bool)
  | status
  | eventPop
  | reservedOp (hcw : Hcw)
  | rxReadToken (f : InFrame)
  | rxWriteToken (f : InFrame)
  | rxBroadcast (f : InFrame)
  | rxReadResp (f : InFrame)
  | rxWriteResp (f : InFrame)
  | rxAuxBroadcast (f : InFrame)
  | rxOther (f : InFrame)
  | txReadReq (addr : RegAddr)
  | txWriteReq (addr : RegAddr) (value : Value)
  | txAck
  | txNak
  deriving DecidableEq, Repr

/-- The instruction a valid inbound frame of kind `kd` is, R78. -/
def rxInstr (kd : FrameKind) (f : InFrame) : Instr :=
  match kd with
  | .broadcast => .rxBroadcast f
  | .readResp => .rxReadResp f
  | .writeResp => .rxWriteResp f
  | .readToken => .rxReadToken f
  | .writeToken => .rxWriteToken f
  | .auxBroadcast => .rxAuxBroadcast f
  | .other => .rxOther f

end Sys2Proof
end

