-- ==== Sys2Proof/Machine/Operands.lean ====
section
/-! DEFINITION. Operand forms: the little-endian helpers of 00_scope.md R10, the fields of the host command word
(30_encoding.md R84, R86), and the byte form of an inbound frame (R70, R71). -/

namespace Sys2Proof

/-! ## Little-endian fields (R10, R51) -/

/-- `le16` of R10 from its two bytes: the byte at the lower offset is the less significant. -/
def le16 (b0 b1 : Byte) : BitVec 16 := b1 ++ b0

/-- `le_n` of R10 at n = 4 from its four bytes. -/
def le32 (b0 b1 b2 b3 : Byte) : BitVec 32 := b3 ++ b2 ++ b1 ++ b0

/-- `le_n` of R10 over a whole byte sequence: Σ `s[j]·2^(8j)`. -/
def leNat : Bytes → Nat
  | [] => 0
  | b :: rest => b.toNat + 256 * leNat rest

/-- `bytes_le(v, n)` of R10: the low `n` bytes of `v`, least significant first. -/
def bytesLe {w : Nat} (v : BitVec w) : Nat → Bytes
  | 0 => []
  | n + 1 => v.setWidth 8 :: bytesLe (v >>> 8) n

/-- The value of a `w`-byte field, R108: sign-extended or zero-extended to 32 bits (R10, log entry 9). -/
def fieldValue (sgn : Bool) (s : Bytes) : Value :=
  if sgn then (BitVec.ofNat (8 * s.length) (leNat s)).signExtend 32
  else (BitVec.ofNat (8 * s.length) (leNat s)).setWidth 32

/-! ## The host command word (R84) -/

/-- `OP`, bits [3:0]. -/
def hcwOp (h : Hcw) : BitVec 4 := h.extractLsb' 0 4
/-- `WCODE`, bits [5:4]. -/
def hcwWcode (h : Hcw) : BitVec 2 := h.extractLsb' 4 2
/-- `SGN`, bit [6]. -/
def hcwSgn (h : Hcw) : Bool := h.getLsbD 6
/-- The reserved field, bits [15:7]. -/
def hcwReserved (h : Hcw) : BitVec 9 := h.extractLsb' 7 9
/-- `ADDR`, bits [31:16]. -/
def hcwAddr (h : Hcw) : RegAddr := h.extractLsb' 16 16
/-- `VALUE`, bits [63:32]. -/
def hcwValue (h : Hcw) : Value := h.extractLsb' 32 32

/-- A host command word from its fields, R84: VALUE, ADDR, reserved 0, SGN, WCODE, OP. -/
def mkHcw (value : Value) (addr : RegAddr) (sgn : Bool) (wcode : BitVec 2) (op : BitVec 4) : Hcw :=
  value ++ addr ++ (0 : BitVec 9) ++ BitVec.ofBool sgn ++ wcode ++ op

/-- R180: the words that return ILLEGAL at dispatch, a nonzero reserved field or a reserved OP. -/
def hcwIllegal (h : Hcw) : Bool :=
  decide (hcwReserved h ≠ 0) || decide (hcwOp h = 0) || decide (9 ≤ (hcwOp h).toNat)

/-- The byte count `width / 8` of a WCODE, R86; code 3 has none. -/
def wcodeBytes (w : BitVec 2) : Option Nat :=
  if w = 0 then some 1 else if w = 1 then some 2 else if w = 2 then some 4 else none

/-! ## Inbound frames (R70, R71) -/

/-- The declared-length byte `N` at offset 4. -/
def InFrame.lenByte (f : InFrame) : Byte := BitVec.ofNat 8 f.payload.length

/-- The bytes of an inbound frame in transmission order, R70. -/
def InFrame.bytes (f : InFrame) : Bytes :=
  startIn :: reservedByte :: f.addr :: f.cmd :: f.lenByte :: (f.payload ++ [f.cs])

/-- The fields of a complete inbound frame of exactly `N + 6` bytes, R71; none for any other sequence. -/
def InFrame.parse : Bytes → Option InFrame
  | s :: r :: a :: c :: n :: rest =>
    if s = startIn ∧ r = reservedByte then
      match rest.drop n.toNat with
      | [cs] => some ⟨a, c, rest.take n.toNat, cs⟩
      | _ => none
    else none
  | _ => none

end Sys2Proof
end

