-- ==== Sys2Proof/Machine/Codec.lean ====
section
/-! DEFINITION. The frame codec (40_frame_codec.md R100 to R112): checksum, classification, destuff engine,
decoders and builders. Every function is pure and total (R100). -/

namespace Sys2Proof

/-! ## Checksum -/

/-- `xorsum(s)`, R101. -/
def xorsum (s : Bytes) : Byte := s.foldl (fun acc b => acc ^^^ b) 0

/-- `verifyChecksum(f, N)`, R102, on the raw bytes: the XOR of offsets 2 to 4+N against the byte at 5+N, with
0xC5 accepted for a computed 0x5C. -/
def verifyChecksum (f : Bytes) (n : Nat) : Bool :=
  match f.drop (5 + n) with
  | t :: _ =>
    let c := xorsum ((f.drop 2).take (n + 3))
    decide (t = c) || (decide (c = startIn) && decide (t = csAlias))
  | [] => false

/-! ## Classification -/

/-- `AUX_CMD = ANY or c = AUX_CMD`, R78. -/
def auxCmdMatches (c : Config) (cmd : Byte) : Bool :=
  match c.auxCmd with
  | none => true
  | some x => decide (cmd = x)

/-- `kindOf(a, c)`, R78: the bus address and the command select the kind, the length takes no part. -/
def kindOf (c : Config) (a cmd : Byte) : FrameKind :=
  if a = c.primaryAddr ∧ cmd = c.cmdBroadcast then .broadcast
  else if a = c.primaryAddr ∧ cmd = c.cmdReadResp then .readResp
  else if a = c.primaryAddr ∧ cmd = c.cmdWriteResp then .writeResp
  else if a = c.primaryAddr ∧ cmd = cmdReadToken then .readToken
  else if a = c.primaryAddr ∧ cmd = c.cmdWriteToken then .writeToken
  else if a = c.auxAddr ∧ auxCmdMatches c cmd = true then .auxBroadcast
  else .other

/-- `classify(buf, len)`, R103, with `len` the length of the list: the checks in the order of R227 (2). -/
def classify (c : Config) (buf : Bytes) : Verdict :=
  match buf with
  | [] => .incomplete
  | b0 :: t0 =>
    if b0 ≠ startIn then .invalid
    else match t0 with
      | [] => .incomplete
      | b1 :: t1 =>
        if b1 ≠ reservedByte then .invalid
        else match t1 with
          | a :: cmd :: n :: _ =>
            if c.bufCap < n.toNat + 6 then .invalid
            else if buf.length < n.toNat + 6 then .incomplete
            else if verifyChecksum (buf.take (n.toNat + 6)) n.toNat then .valid (kindOf c a cmd)
            else .checksumFailure
          | _ => .incomplete

/-! ## Byte-destuff engine -/

/-- The destuff threshold of a kind, R80. -/
def destuffThreshold (c : Config) : FrameKind → Option Byte
  | .broadcast => some c.tBroadcast
  | .readResp => some c.tReadResp
  | .auxBroadcast => some c.tAux
  | .writeResp => none
  | .readToken => none
  | .writeToken => none
  | .other => none

/-- `needsDestuff(kind, N)`, R104. -/
def needsDestuff (c : Config) (kd : FrameKind) (n : Nat) : Bool :=
  match destuffThreshold c kd with
  | some t => decide (t.toNat < n)
  | none => false

/-- The scan of R105: left to right, each pair `5C 5C` becomes one `5C`, and the scan goes on after the pair. -/
def collapsePairs : Bytes → Bytes
  | [] => []
  | [b] => [b]
  | b :: b' :: rest =>
    if b = startIn ∧ b' = startIn then b :: collapsePairs rest
    else b :: collapsePairs (b' :: rest)

/-- `removeByteStuffing(f)`, R105: the destuffed frame `g` and the effective length `N'`. The scan runs over
the frame from offset 1, or over the payload only where `DESTUFF_SCOPE` is PAYLOAD (K1, K2, log entry 12). The
difference is a natural number (log entry 21). -/
def removeByteStuffing (c : Config) (f : InFrame) : Bytes × Nat :=
  let raw := f.bytes
  let g := match c.destuffScope with
    | .frame => raw.take 1 ++ collapsePairs (raw.drop 1)
    | .payload => raw.take 5 ++ collapsePairs f.payload ++ [f.cs]
  (g, f.payload.length - (raw.length - g.length))

/-- The payload `P` the decoders read, and R110's choice whether the frame is destuffed first. Its length is
the effective length `N'`. -/
def effectivePayload (c : Config) (kd : FrameKind) (f : InFrame) : Bytes :=
  if needsDestuff c kd f.payload.length then
    ((removeByteStuffing c f).1.drop 5).take (removeByteStuffing c f).2
  else f.payload

/-! ## Decoders. `N'` is the length of `P`, and `none` is `DecodeError`. -/

/-- `decodeBroadcast(P, N')`, R106: 4-byte records, those at the sentinel address skipped, a partial last
record ignored. -/
def decodeBroadcast : Bytes → List RegValue
  | a0 :: a1 :: v0 :: v1 :: rest =>
    if le16 a0 a1 = sentinel then decodeBroadcast rest
    else ⟨le16 a0 a1, (le16 v0 v1).signExtend 32⟩ :: decodeBroadcast rest
  | _ => []

/-- `decodeReadResponse(P, N')`, R107. -/
def decodeReadResponse : Bytes → Option (List RegValue)
  | a0 :: a1 :: v0 :: v1 :: v2 :: v3 :: _ => some [⟨le16 a0 a1, le32 v0 v1 v2 v3⟩]
  | _ => none

/-- The loop of `decodeAuxiliaryBroadcast`, R108, over the entries of `AUX_FIELDS`. -/
def decodeAuxFields (p : Bytes) : List AuxField → Option (List RegValue)
  | [] => some []
  | fd :: rest =>
    if p.length < fd.off + fd.w then none
    else match decodeAuxFields p rest with
      | none => none
      | some out => some (⟨fd.reg, fieldValue fd.sgn ((p.drop fd.off).take fd.w)⟩ :: out)

/-- `decodeAuxiliaryBroadcast(P, N')`, R108. -/
def decodeAuxBroadcast (c : Config) (p : Bytes) : Option (List RegValue) := decodeAuxFields p c.auxFields

/-- `decodeWriteAck(P, N')`, R109. -/
def decodeWriteAck : Bytes → Option Bool
  | [] => none
  | b :: _ => some (decide (b = 0x01))

/-- The event of a decoder's result, R110: DECODE_ERROR of the kind, or FRAME with the body. -/
def frameEvent (kd : FrameKind) : Option Body → Event
  | none => .decodeError kd
  | some b => .frame kd b

/-- `decodeFrame(kind, f)`, R110. -/
def decodeFrame (c : Config) (d : DataKind) (f : InFrame) : Event :=
  let p := effectivePayload c d.kind f
  match d with
  | .broadcast => .frame .broadcast (.regs (decodeBroadcast p))
  | .readResp => frameEvent .readResp ((decodeReadResponse p).map .regs)
  | .auxBroadcast => frameEvent .auxBroadcast ((decodeAuxBroadcast c p).map .regs)
  | .writeResp => frameEvent .writeResp ((decodeWriteAck p).map .ack)
  | .other => .frame .other (.raw f.bytes)

/-! ## Frame builder -/

/-- `buildReadRequest(addr)`, R111, R73. -/
def buildReadRequest (c : Config) (addr : RegAddr) : Bytes :=
  let h := [startOut, c.cmdReadReq, 0x02] ++ bytesLe addr 2
  h ++ [xorsum h]

/-- The value field of a write request, R82: the low `n` bytes, then zero bytes, whatever the sign. -/
def valueField (value : Value) (n : Nat) : Bytes :=
  bytesLe value n ++ List.replicate (4 - n) 0

/-- `buildWriteRequest(addr, value, width, signed)`, R112, with `n = width / 8`. `signed` changes no byte. -/
def buildWriteRequest (c : Config) (addr : RegAddr) (value : Value) (n : Nat) (_signed : Bool) : Bytes :=
  let h := [startOut, c.cmdWriteReq, 0x06] ++ bytesLe addr 2 ++ valueField value n
  h ++ [xorsum h]

end Sys2Proof
end

