-- ==== Sys2Proof/WellFormed.lean ====
section
/-! DEFINITION. Well-formed instructions under a configuration: those an encoding stands for. Operands that a
command itself judges at run time (a FRAME of a bad length, WCODE 3) are not checked here: the command executes
and answers ILLEGAL (30_encoding.md R87). -/

namespace Sys2Proof

/-- An inbound frame the validator accepts (R103), of kind `kd` (R78): the length byte can hold `N`, the frame
fits the buffer, and the checksum passes. -/
def InFrame.wellFormed (c : Config) (kd : FrameKind) (f : InFrame) : Bool :=
  decide (f.payload.length < 256)
    && decide (f.payload.length + 6 ≤ c.bufCap)
    && verifyChecksum f.bytes f.payload.length
    && decide (kindOf c f.addr f.cmd = kd)

/-- Well-formedness of an instruction. `reservedOp` stands for the words R180 rejects, and for no other
(log entry 15). -/
def Instr.wellFormed (c : Config) : Instr → Bool
  | .connect => true
  | .disconnect => true
  | .enqRead _ => true
  | .enqWrite _ => true
  | .buildRead _ => true
  | .buildWrite _ _ _ _ => true
  | .status => true
  | .eventPop => true
  | .reservedOp h => hcwIllegal h
  | .rxReadToken f => f.wellFormed c .readToken
  | .rxWriteToken f => f.wellFormed c .writeToken
  | .rxBroadcast f => f.wellFormed c .broadcast
  | .rxReadResp f => f.wellFormed c .readResp
  | .rxWriteResp f => f.wellFormed c .writeResp
  | .rxAuxBroadcast f => f.wellFormed c .auxBroadcast
  | .rxOther f => f.wellFormed c .other
  | .txReadReq _ => true
  | .txWriteReq _ _ => true
  | .txAck => true
  | .txNak => true

end Sys2Proof
end

