-- ==== Sys2Proof/Decode.lean ====
section
/-! DEFINITION. The decoder, total on any word of any port, and the encoder (30_encoding.md R70 to R86).
An instruction's word travels on one of three ports: the host command port (HCW and FRAME, R84), the RX port
(an inbound frame, R70), or the TX port (an outbound frame or control byte, R73, R74). -/

namespace Sys2Proof

/-- An instruction's encoding, with the port that carries it. -/
inductive PortWord where
  | host (hcw : Hcw) (frame : Bytes)
  | rx (bytes : Bytes)
  | tx (bytes : Bytes)
  deriving DecidableEq, Repr

/-- Why a word is no instruction: the three failing results of R103, bytes after a complete frame, or TX bytes
that are neither a control byte nor a request of R73. -/
inductive DecodeError where
  | incomplete
  | invalid
  | checksumFailure
  | trailingBytes
  | notOutbound
  deriving DecidableEq, Repr

/-- Decoding of a host command word, R85 and R180. Every word decodes: those R180 rejects are `reservedOp`.
Fields a command does not use are don't-care (R84). -/
def decodeHost (h : Hcw) (frame : Bytes) : Instr :=
  if hcwIllegal h then .reservedOp h
  else match (hcwOp h).toNat with
    | 1 => .connect
    | 2 => .disconnect
    | 3 => .enqRead frame
    | 4 => .enqWrite frame
    | 5 => .buildRead (hcwAddr h)
    | 6 => .buildWrite (hcwAddr h) (hcwValue h) (hcwWcode h) (hcwSgn h)
    | 7 => .status
    | 8 => .eventPop
    | _ => .reservedOp h

/-- Decoding of an inbound frame: `classify` (R103) and then the frame's fields (R70). -/
def decodeRx (c : Config) (bytes : Bytes) : Except DecodeError Instr :=
  match classify c bytes with
  | .incomplete => .error .incomplete
  | .invalid => .error .invalid
  | .checksumFailure => .error .checksumFailure
  | .valid kd =>
    match InFrame.parse bytes with
    | some f => .ok (rxInstr kd f)
    | none => .error .trailingBytes

/-- Decoding of a control byte, R74. -/
def decodeControl (b : Byte) : Option Instr :=
  if b = ackByte then some .txAck else if b = nakByte then some .txNak else none

/-- Decoding of what is written to the TX port: a control byte (R74), a 6-byte read request or a 10-byte write
request (R73) with its checksum right. -/
def decodeTx (c : Config) : Bytes → Option Instr
  | [b] => decodeControl b
  | [m, q, l, a0, a1, cs] =>
    if m = startOut ∧ q = c.cmdReadReq ∧ l = 0x02 ∧ cs = xorsum [m, q, l, a0, a1]
    then some (.txReadReq (le16 a0 a1)) else none
  | [m, q, l, a0, a1, v0, v1, v2, v3, cs] =>
    if m = startOut ∧ q = c.cmdWriteReq ∧ l = 0x06 ∧ cs = xorsum [m, q, l, a0, a1, v0, v1, v2, v3]
    then some (.txWriteReq (le16 a0 a1) (le32 v0 v1 v2 v3)) else none
  | _ => none

/-- The decoder. -/
def decode (c : Config) : PortWord → Except DecodeError Instr
  | .host h frame => .ok (decodeHost h frame)
  | .rx bytes => decodeRx c bytes
  | .tx bytes =>
    match decodeTx c bytes with
    | some i => .ok i
    | none => .error .notOutbound

/-! ## The encoder -/

/-- A host command word with every unused field 0, R84, R85. -/
def opHcw (op : BitVec 4) : Hcw := mkHcw 0 0 false 0 op

/-- The word of an instruction. -/
def encode (c : Config) : Instr → PortWord
  | .connect => .host (opHcw 1) []
  | .disconnect => .host (opHcw 2) []
  | .enqRead frame => .host (opHcw 3) frame
  | .enqWrite frame => .host (opHcw 4) frame
  | .buildRead a => .host (mkHcw 0 a false 0 5) []
  | .buildWrite a v w s => .host (mkHcw v a s w 6) []
  | .status => .host (opHcw 7) []
  | .eventPop => .host (opHcw 8) []
  | .reservedOp h => .host h []
  | .rxReadToken f => .rx f.bytes
  | .rxWriteToken f => .rx f.bytes
  | .rxBroadcast f => .rx f.bytes
  | .rxReadResp f => .rx f.bytes
  | .rxWriteResp f => .rx f.bytes
  | .rxAuxBroadcast f => .rx f.bytes
  | .rxOther f => .rx f.bytes
  | .txReadReq a => .tx (buildReadRequest c a)
  | .txWriteReq a v => .tx (buildWriteRequest c a v 4 false)
  | .txAck => .tx [ackByte]
  | .txNak => .tx [nakByte]

/-! ## Words numbered as spec/opcode_table.json numbers them (log entry 13) -/

/-- The `n` low bytes of `w`, the most significant first: the table writes byte 0 of a frame leftmost. -/
def beBytes (w : Nat) : Nat → Bytes
  | 0 => []
  | n + 1 => BitVec.ofNat 8 (w / 256 ^ n) :: beBytes w n

/-- A whole inbound frame from its four header bytes: `N = 0`, no payload, and the checksum R101 computes (a
frame whose checksum byte is wrong is no instruction). -/
def completeHeader (header : Bytes) : Bytes :=
  header ++ [0x00, xorsum (header.drop 2 ++ [0x00])]

/-- The word a table row's bits stand for: 32 bits are an inbound header, 48 and 80 an outbound request, 8 bits
a control byte where they are one, and every other number of bits a host command word, with the FRAME side
data one zero byte. -/
def tableWord (nbits w : Nat) : PortWord :=
  if nbits = 32 then .rx (completeHeader (beBytes w 4))
  else if nbits = 48 then .tx (beBytes w 6)
  else if nbits = 80 then .tx (beBytes w 10)
  else if nbits = 8 ∧ (w = 0x06 ∨ w = 0x15) then .tx (beBytes w 1)
  else .host (BitVec.ofNat 64 w) [0x00]

/-- The instruction the decoder reads from a table row's bits, under the reference configuration. -/
def decodeTableWord (nbits w : Nat) : Option Instr :=
  (decode Config.reference (tableWord nbits w)).toOption

end Sys2Proof
end

