-- ==== Sys2Proof/Machine/State.lean ====
section
/-! DEFINITION. The machine's state (10_state.md R20 to R35), its reset (70_reset_and_hazards.md R260), and the
reasons a step can stop. All of it is plain data. -/

namespace Sys2Proof.Machine

open Sys2Proof

/-- Why the machine stops with a fault. No fault arises from a state that meets the invariant of Safety.lean;
each is the spec's "model fault" of an access that no rule makes (log entries 8 and 17). -/
inductive Fault where
  /-- Raised by an arbiter step that would read `k`, `pend`, or a byte of `buf`, where it holds no value (R35,
  D37). Safe: the spec gives no value there. -/
  | readsNoValue
  /-- Raised by WAIT_DATA on a byte for an offset not below BUF_CAP (R22, R144). Safe: no such byte of storage
  exists. -/
  | bufferOverflow
  /-- Raised by the meaning of an inbound frame or of a TX word in an arbiter state that has no such step (R140,
  R155). Safe: ARB never transmits unprompted, and `step` never asks for it. -/
  | notEnabled
  deriving DecidableEq, Repr

/-- Why the machine refuses. -/
inductive Refusal where
  /-- Raised by an arm of `exec` whose instruction has no meaning yet; no arm is. Safe. -/
  | notModelled (mnemonic : String)
  /-- Raised by `step` under a configuration that breaks R8 (93_implementation_defined.md P4). Safe. -/
  | badConfig
  deriving DecidableEq, Repr

/-- The state of the block, R20, with the configuration, the environment's inputs and the observations of R30.
`len` is the length of `buf`: the offsets not below it hold no value (R22, R35). -/
structure State where
  /-- The configuration, R7: fixed, no step writes it (log entry 1). -/
  cfg       : Config
  /-- The arbiter state register, R21. -/
  state     : ArbState
  /-- The parser buffer's accepted bytes, R22. -/
  buf       : Bytes
  /-- The latched frame kind, or no value, R24. -/
  k         : Option FrameKind
  /-- The pending event, or nothing, R25. -/
  pend      : Option Event
  /-- The transport-failure cause, or no value, R26. -/
  ecause    : Option Cause
  /-- `cancel_req`, R27. -/
  cancelReq : Bool
  /-- The read queue, head first, R28. -/
  rdq       : List Bytes
  /-- The write queue, head first, R28. -/
  wrq       : List Bytes
  /-- The event FIFO, head first, R29. -/
  evq       : List Event
  /-- Environment: the RX inputs waiting at the port, R30, R55 (log entry 3). -/
  rxPort    : List RxInput
  /-- Environment: DEV's answers to the TX writes to come, R54; TxOk where none is listed (log entry 4). -/
  txAnswers : List TxAnswer
  /-- Environment: which agent moves at each step to come, R57 (log entry 2). -/
  sched     : List Move
  /-- Observation: the TX trace, R30. -/
  txTrace   : Bytes
  /-- Observation: the events popped, oldest first, R30. -/
  popped    : List Event
  /-- Observation: the response of the last host command, R84; none before the first (log entry 5). -/
  resp      : Option Response
  deriving DecidableEq, Repr

namespace State

/-- `len`, R22. -/
def len (s : State) : Nat := s.buf.length

/-- The machine right after reset under the configuration `c`, R34 and R260 (log entry 23). -/
def resetWith (c : Config) : State where
  cfg := c
  state := .stopped
  buf := []
  k := none
  pend := none
  ecause := none
  cancelReq := false
  rdq := []
  wrq := []
  evq := []
  rxPort := []
  txAnswers := []
  sched := []
  txTrace := []
  popped := []
  resp := none

/-- The machine right after reset, under the reference configuration (log entry 1). -/
def reset : State := resetWith Config.reference

end State

end Sys2Proof.Machine
end

