-- ==== Sys2Proof/Machine/Flags.lean ====
section
/-! DEFINITION. Status conditions. The block has no arithmetic flags (10_state.md R33); its conditions are the
derived `connected` (R32), the STATUS view (R31) and the EVQ_NONEMPTY level (60_exceptions.md R226). -/

namespace Sys2Proof.Machine.State

open Sys2Proof

/-- `connected`, R32: derived, 1 iff the arbiter is not STOPPED. -/
def connected (s : State) : Bool := decide (s.state ≠ .stopped)

/-- `EVQ_NONEMPTY`, R31 bit [8] and R226: a level a platform may wire as an interrupt request. -/
def evqNonempty (s : State) : Bool := decide (0 < s.evq.length)

/-- `RDQ_COUNT` and `WRQ_COUNT`, R31: `min(len, 255)`. -/
def countField (q : List Bytes) : BitVec 8 := BitVec.ofNat 8 (min q.length 255)

/-- An emptiness bit of STATUS, R31. -/
def emptyBit (q : List Bytes) : BitVec 1 := BitVec.ofBool (decide (q.length = 0))

/-- The STATUS word, R31, from bits [31:24] down to [3:0]. -/
def statusWord (s : State) : BitVec 32 :=
  countField s.wrq ++ countField s.rdq ++ (0 : BitVec 7) ++ BitVec.ofBool s.evqNonempty
    ++ emptyBit s.wrq ++ emptyBit s.rdq ++ BitVec.ofBool s.cancelReq ++ BitVec.ofBool s.connected
    ++ s.state.code

end Sys2Proof.Machine.State
end

