-- ==== Sys2Proof/Machine/Ops.lean ====
section
/-! DEFINITION. The named operations the meanings share: entering an arbiter state, the transport-failure entry and
return (the block's exception, 60_exceptions.md R228, R229), TX writes (20_memory.md R54), queue and event ports
(42_queues_and_connector.md R189 to R192), and host responses (30_encoding.md R84). -/

namespace Sys2Proof.Machine

open Sys2Proof

/-- The outcome of a step of this machine. -/
abbrev Result := Host.Outcome State Fault Refusal

namespace State

/-! ## Capacities -/

/-- Whether a sequence of length `n` has room under a capacity (none is ∞): `n < cap`, R189, R192 (log
entry 16). -/
def room (cap : Option Nat) (n : Nat) : Bool :=
  match cap with
  | none => true
  | some m => decide (n < m)

/-- R192: `emit`'s precondition, `len(evq) < EVQ_CAP`. -/
def evqRoom (s : State) : Bool := room s.cfg.evqCap s.evq.length

/-- R183, R184: a FRAME of 1 to FRAME_MAX bytes. -/
def frameOk (c : Config) (f : Bytes) : Bool := decide (1 ≤ f.length) && decide (f.length ≤ c.frameMax)

/-! ## Entering an arbiter state -/

/-- Every transition into WAIT_START: `len <- 0` (R23), and the latches hold no value there (R24 to R26, log
entry 7). -/
def enterWaitStart (s : State) : State :=
  { s with state := .waitStart, buf := [], k := none, pend := none, ecause := none }

/-- Every transition into STOPPED: `len <- 0` (R23) and `cancel_req <- 0` (R27, R142, R153). -/
def enterStopped (s : State) : State :=
  { s with state := .stopped, buf := [], k := none, pend := none, ecause := none, cancelReq := false }

/-- Taking the block's one exception, a transport failure (error class 4): R145, R152, R228. The cause and the
event are latched, and the frame in progress is dropped. -/
def enterTransportError (cause : Cause) (s : State) : State :=
  { s with state := .transportError, buf := [], k := none,
           pend := some (.transportError cause), ecause := some cause }

/-! ## The TX port -/

/-- R54: a TX write of `w`, one step, ended by DEV's answer. On TxOk the whole of `w` is on the wire and the
step goes on as `done` says; on TxFail the prefix DEV reports is, and R152 follows. -/
def transmit (w : Bytes) (done : State → State) (s : State) : State :=
  match s.txAnswers with
  | [] => done { s with txTrace := s.txTrace ++ w }
  | .ok :: rest => done { s with txAnswers := rest, txTrace := s.txTrace ++ w }
  | .fail sent :: rest =>
    enterTransportError .tx { s with txAnswers := rest, txTrace := s.txTrace ++ w.take sent }

/-- What answers a token, R150, R151: the queue's head frame, or ACK where the queue is empty. -/
def tokenAnswer (q : List Bytes) : Bytes :=
  match q with
  | [] => [ackByte]
  | f :: _ => f

/-- READ_TOKEN_RECEIVED, R150: one TX write, of the frame popped from `rdq` or of ACK. -/
def serveReadToken (s : State) : State :=
  transmit (tokenAnswer s.rdq) enterWaitStart { s with rdq := s.rdq.tail }

/-- WRITE_TOKEN_RECEIVED, R151. -/
def serveWriteToken (s : State) : State :=
  transmit (tokenAnswer s.wrq) enterWaitStart { s with wrq := s.wrq.tail }

/-- R146: NAK, and back to WAIT_START. -/
def sendNak (s : State) : State := transmit [nakByte] enterWaitStart s

/-- R148 after TxOk: the event is decoded into `pend`. -/
def enterDeliver (e : Event) (s : State) : State := { s with state := .deliver, pend := some e }

/-- R148: ACK first, then the decode (92_eei_decisions.md D19). -/
def ackAndDecode (d : DataKind) (f : InFrame) (s : State) : State :=
  transmit [ackByte] (enterDeliver (decodeFrame s.cfg d f)) s

/-! ## Queue, event and command ports -/

/-- `push(rdq, f)`, R189. -/
def pushRead (f : Bytes) (s : State) : State := { s with rdq := s.rdq ++ [f] }

/-- `push(wrq, f)`, R189. -/
def pushWrite (f : Bytes) (s : State) : State := { s with wrq := s.wrq ++ [f] }

/-- `emit(e)`, R192. -/
def emit (e : Event) (s : State) : State := { s with evq := s.evq ++ [e] }

/-- The response of a host command, R84. -/
def respond (st : HostStatus) (d : RespData) (s : State) : State := { s with resp := some ⟨st, d⟩ }

/-- DEV's step, R30: an RX input joins those waiting at the port, an answer joins those to come, or the
waiting inputs are withdrawn. -/
def devStep (d : DevMove) (s : State) : State :=
  match d with
  | .offer inp => { s with rxPort := s.rxPort ++ [inp] }
  | .answer a => { s with txAnswers := s.txAnswers ++ [a] }
  | .withdraw => { s with rxPort := [] }

/-! ## Parser-buffer access (R11, R50) -/

/-- `MemRead(addr, n)`, R11: `n` bytes of `buf`, none where one of them holds no value (R35). -/
def memRead (s : State) (addr n : Nat) : Option Bytes :=
  if addr + n ≤ s.buf.length then some ((s.buf.drop addr).take n) else none

/-- `buf[len] <- b; len <- len + 1`, R144: none where the offset is not below BUF_CAP. -/
def appendByte (b : Byte) (s : State) : Option State :=
  if s.buf.length < s.cfg.bufCap then some { s with buf := s.buf ++ [b] } else none

end State

/-! ## The shared shapes of the inbound and outbound meanings -/

/-- A data frame takes effect in OK_MESSAGE, R148; ARB has no such step elsewhere. -/
def receiveData (d : DataKind) (f : InFrame) (s : State) : Result :=
  match s.state with
  | .okMessage => .next (s.ackAndDecode d f)
  | _ => .fault .notEnabled

/-- ARB's step that writes exactly `w` to the TX port, R155 (1): NAK in CRC_FAILURE, ACK in OK_MESSAGE with a
data frame, and the token's answer in a token state. ARB has no other TX write. -/
def transmitStep (w : Bytes) (s : State) : Result :=
  match s.state with
  | .crcFailure => if w = [nakByte] then .next s.sendNak else .fault .notEnabled
  | .okMessage =>
    match s.k.bind FrameKind.toData, InFrame.parse s.buf with
    | some d, some f => if w = [ackByte] then .next (s.ackAndDecode d f) else .fault .notEnabled
    | _, _ => .fault .notEnabled
  | .readTokenReceived =>
    if w = State.tokenAnswer s.rdq then .next s.serveReadToken else .fault .notEnabled
  | .writeTokenReceived =>
    if w = State.tokenAnswer s.wrq then .next s.serveWriteToken else .fault .notEnabled
  | _ => .fault .notEnabled

end Sys2Proof.Machine
end

