-- ==== Sys2Proof/Machine/HostCommands.lean ====
section
/-! DEFINITION. The host commands (42_queues_and_connector.md R180 to R188). Each is one atomic step, may be issued
in every arbiter state, and answers a status; a command that answers an error changes no other state (R225). -/

namespace Sys2Proof.Machine

open Sys2Proof

/-- CONNECT, R181: STOPPED to WAIT_START; BUSY in every other state. Queues and events stay. -/
def execConnect (s : State) : Result :=
  if s.state = .stopped then
    .next (State.respond .ok .none (State.enterWaitStart { s with cancelReq := false }))
  else .next (State.respond .busy .none s)

/-- DISCONNECT, R182: `cancel_req <- 1`; no effect in STOPPED. -/
def execDisconnect (s : State) : Result :=
  if s.state = .stopped then .next (State.respond .ok .none s)
  else .next (State.respond .ok .none { s with cancelReq := true })

/-- ENQ_READ, R183: ILLEGAL for a bad length, QFULL for a full queue, else the frame joins `rdq`. -/
def execEnqRead (frame : Bytes) (s : State) : Result :=
  if State.frameOk s.cfg frame then
    if State.room s.cfg.qCap s.rdq.length then .next (State.respond .ok .none (State.pushRead frame s))
    else .next (State.respond .qfull .none s)
  else .next (State.respond .illegal .none s)

/-- ENQ_WRITE, R184: as R183, on `wrq`. -/
def execEnqWrite (frame : Bytes) (s : State) : Result :=
  if State.frameOk s.cfg frame then
    if State.room s.cfg.qCap s.wrq.length then .next (State.respond .ok .none (State.pushWrite frame s))
    else .next (State.respond .qfull .none s)
  else .next (State.respond .illegal .none s)

/-- BUILD_READ, R185: the frame is returned and not enqueued. -/
def execBuildRead (addr : RegAddr) (s : State) : Result :=
  .next (State.respond .ok (.frame (buildReadRequest s.cfg addr)) s)

/-- BUILD_WRITE, R186: ILLEGAL for WCODE 3, else the frame is returned and not enqueued. -/
def execBuildWrite (addr : RegAddr) (value : Value) (wcode : BitVec 2) (sgn : Bool) (s : State) : Result :=
  match wcodeBytes wcode with
  | none => .next (State.respond .illegal .none s)
  | some n => .next (State.respond .ok (.frame (buildWriteRequest s.cfg addr value n sgn)) s)

/-- STATUS, R187: the view of R31, with no side effect on what it views. -/
def execStatus (s : State) : Result := .next (State.respond .ok (.word s.statusWord) s)

/-- EVENT_POP, R188: the head of `evq`, or EMPTY. -/
def execEventPop (s : State) : Result :=
  match s.evq with
  | [] => .next (State.respond .empty .none s)
  | e :: q => .next (State.respond .ok (.event e) { s with evq := q, popped := s.popped ++ [e] })

/-- A word R180 rejects at dispatch (a reserved OP or a nonzero reserved field): ILLEGAL, whatever the word. -/
def execReservedOp (_hcw : Hcw) (s : State) : Result := .next (State.respond .illegal .none s)

end Sys2Proof.Machine
end

