-- ==== Sys2Proof/Machine/Inbound.lean ====
section
/-! DEFINITION. The inbound frames (41_bus_arbiter.md R147, R148, R150, R151; 40_frame_codec.md R106 to R110). The
bytes of a frame reach `buf` one a step (Arbiter.lean); these meanings are ARB's steps on the complete valid
frame (log entry 8). -/

namespace Sys2Proof.Machine

open Sys2Proof

/-- A read token: OK_MESSAGE to READ_TOKEN_RECEIVED (R147), and there one TX write of the head of `rdq` or of
ACK (R150). The token itself is not ACKed and makes no event. -/
def execRxReadToken (_f : InFrame) (s : State) : Result :=
  match s.state with
  | .okMessage => .next { s with state := .readTokenReceived }
  | .readTokenReceived => .next s.serveReadToken
  | _ => .fault .notEnabled

/-- A write token, R147 and R151. -/
def execRxWriteToken (_f : InFrame) (s : State) : Result :=
  match s.state with
  | .okMessage => .next { s with state := .writeTokenReceived }
  | .writeTokenReceived => .next s.serveWriteToken
  | _ => .fault .notEnabled

/-- A broadcast, R148 with R106. -/
def execRxBroadcast (f : InFrame) (s : State) : Result := receiveData .broadcast f s

/-- A read response, R148 with R107. -/
def execRxReadResp (f : InFrame) (s : State) : Result := receiveData .readResp f s

/-- A write acknowledge, R148 with R109. -/
def execRxWriteResp (f : InFrame) (s : State) : Result := receiveData .writeResp f s

/-- An auxiliary broadcast, R148 with R108. -/
def execRxAuxBroadcast (f : InFrame) (s : State) : Result := receiveData .auxBroadcast f s

/-- Any other frame, R79, R148 with R110: ACKed and delivered raw. -/
def execRxOther (f : InFrame) (s : State) : Result := receiveData .other f s

end Sys2Proof.Machine
end

