-- ==== Sys2Proof/Machine/Outbound.lean ====
section
/-! DEFINITION. The outbound words (30_encoding.md R73, R74; 41_bus_arbiter.md R146, R148, R150, R151, R155): ARB's
step that writes exactly this word to the TX port (log entry 8). -/

namespace Sys2Proof.Machine

open Sys2Proof

/-- A read request goes out, R111 with R150 and R151. -/
def execTxReadReq (addr : RegAddr) (s : State) : Result := transmitStep (buildReadRequest s.cfg addr) s

/-- A write request goes out, R112 with R150 and R151: the four bytes of `value` are the value field. -/
def execTxWriteReq (addr : RegAddr) (value : Value) (s : State) : Result :=
  transmitStep (buildWriteRequest s.cfg addr value 4 false) s

/-- ACK goes out: after a data frame (R148), or for a token whose queue is empty (R150, R151). -/
def execTxAck (s : State) : Result := transmitStep [ackByte] s

/-- NAK goes out: after a checksum failure, R146. -/
def execTxNak (s : State) : Result := transmitStep [nakByte] s

end Sys2Proof.Machine
end

