-- ==== Sys2Proof/Machine/Dispatch.lean ====
section
/-! DEFINITION. One arm per instruction, each one direct call of its meaning. -/

namespace Sys2Proof.Machine

open Sys2Proof

def exec (i : Instr) (s : State) : Host.Outcome State Fault Refusal :=
  match i with
  | .connect => Sys2Proof.Machine.execConnect s
  | .disconnect => Sys2Proof.Machine.execDisconnect s
  | .enqRead frame => Sys2Proof.Machine.execEnqRead frame s
  | .enqWrite frame => Sys2Proof.Machine.execEnqWrite frame s
  | .buildRead addr => Sys2Proof.Machine.execBuildRead addr s
  | .buildWrite addr value wcode sgn => Sys2Proof.Machine.execBuildWrite addr value wcode sgn s
  | .status => Sys2Proof.Machine.execStatus s
  | .eventPop => Sys2Proof.Machine.execEventPop s
  | .reservedOp hcw => Sys2Proof.Machine.execReservedOp hcw s
  | .rxReadToken f => Sys2Proof.Machine.execRxReadToken f s
  | .rxWriteToken f => Sys2Proof.Machine.execRxWriteToken f s
  | .rxBroadcast f => Sys2Proof.Machine.execRxBroadcast f s
  | .rxReadResp f => Sys2Proof.Machine.execRxReadResp f s
  | .rxWriteResp f => Sys2Proof.Machine.execRxWriteResp f s
  | .rxAuxBroadcast f => Sys2Proof.Machine.execRxAuxBroadcast f s
  | .rxOther f => Sys2Proof.Machine.execRxOther f s
  | .txReadReq addr => Sys2Proof.Machine.execTxReadReq addr s
  | .txWriteReq addr value => Sys2Proof.Machine.execTxWriteReq addr value s
  | .txAck => Sys2Proof.Machine.execTxAck s
  | .txNak => Sys2Proof.Machine.execTxNak s

end Sys2Proof.Machine
end

