-- ==== Sys2Proof/Machine/Arbiter.lean ====
section
/-! DEFINITION. The arbiter's own steps, those that carry no instruction (41_bus_arbiter.md R140 to R145, R149,
R153): taking RX bytes into the parser buffer, cancellation, delivery and the report of a transport failure. An
arbiter with no enabled step holds: its move changes nothing (R11, R140). -/

namespace Sys2Proof.Machine

open Sys2Proof

namespace State

/-- WAIT_START on an RX byte, R143: a start marker opens a frame, any other byte is discarded. -/
def startByte (b : Byte) (s : State) : State :=
  if b = startIn then { s with state := .waitData, buf := [b] } else s

/-- WAIT_DATA after the byte was appended, R144: what `classify` answers. -/
def afterAppend (s : State) : State :=
  match classify s.cfg s.buf with
  | .incomplete => s
  | .invalid => enterWaitStart s
  | .checksumFailure => { s with state := .crcFailure }
  | .valid kd => { s with state := .okMessage, k := some kd }

end State

/-- WAIT_DATA on an RX byte, R144. -/
def dataByte (b : Byte) (s : State) : Result :=
  match State.appendByte b s with
  | some t => .next (State.afterAppend t)
  | none => .fault .bufferOverflow

/-- An input state's step on the byte taken from the port, R143 and R144. -/
def takeByte (b : Byte) (s : State) : Result :=
  match s.state with
  | .waitData => dataByte b s
  | _ => .next (State.startByte b s)

/-- ARB's step in WAIT_START and WAIT_DATA, R140 and R227 (1): cancellation first (R142), then the one RX input
at the head of the port, a failure (R145) or a byte. With neither, ARB waits on DEV. -/
def inputStep (s : State) : Result :=
  if s.cancelReq then .next (State.enterStopped s)
  else match s.rxPort with
    | [] => .next s
    | .fail :: rest => .next (State.enterTransportError .rx { s with rxPort := rest })
    | .byte b :: rest => takeByte b { s with rxPort := rest }

/-- Moving `pend` into `evq` where there is room, and then going on as `done` says: the shape of R149 and R153.
Without room ARB holds. -/
def emitPending (done : State → State) (s : State) : Result :=
  if s.evqRoom then
    match s.pend with
    | some e => .next (done (State.emit e s))
    | none => .fault .readsNoValue
  else .next s

/-- DELIVER, R149. -/
def deliverStep (s : State) : Result := emitPending State.enterWaitStart s

/-- TRANSPORT_ERROR, R153: the failure is reported once, and the block stops. -/
def reportStep (s : State) : Result := emitPending State.enterStopped s

namespace State

/-- Whether ARB has an enabled step, R140. -/
def arbEnabled (s : State) : Bool :=
  match s.state with
  | .waitStart => s.cancelReq || !s.rxPort.isEmpty
  | .waitData => s.cancelReq || !s.rxPort.isEmpty
  | .okMessage => true
  | .crcFailure => true
  | .readTokenReceived => true
  | .writeTokenReceived => true
  | .deliver => s.evqRoom
  | .transportError => s.evqRoom
  | .stopped => false

/-- What ARB's next step writes to the TX port, R155 (1); none where it writes nothing. -/
def txWord (s : State) : Option Bytes :=
  match s.state with
  | .crcFailure => some [nakByte]
  | .okMessage => if (s.k.bind FrameKind.toData).isSome then some [ackByte] else none
  | .readTokenReceived => some (tokenAnswer s.rdq)
  | .writeTokenReceived => some (tokenAnswer s.wrq)
  | _ => none

/-- Whether DEV's next answer to a TX write is TxFail, R54. -/
def nextTxFails (s : State) : Bool :=
  match s.txAnswers with
  | .fail _ :: _ => true
  | _ => false

/-- The error class an input byte shows, R220: noise in WAIT_START, noise or a checksum failure in WAIT_DATA. -/
def byteError (s : State) (b : Byte) : Option ErrorClass :=
  match s.state with
  | .waitStart => if b = startIn then none else some .framingNoise
  | .waitData =>
    match classify s.cfg (s.buf ++ [b]) with
    | .invalid => some .framingNoise
    | .checksumFailure => some .checksumFailure
    | _ => none
  | _ => none

/-- The error class an input state's step detects, R220 with the priority of R227 (1). -/
def inputError (s : State) : Option ErrorClass :=
  if s.cancelReq then none
  else match s.rxPort with
    | [] => none
    | .fail :: _ => some .transport
    | .byte b :: _ => s.byteError b

/-- The error class a data frame's decode shows, R223. -/
def decodeErrorClass (e : Event) : Option ErrorClass :=
  match e with
  | .decodeError _ => some .decodeRange
  | _ => none

/-- The error class ARB's next step detects, R220; at most one (R227 (5)), a TxFail before the rest (R227 (3)). -/
def errorDetected (s : State) : Option ErrorClass :=
  match s.state with
  | .waitStart => s.inputError
  | .waitData => s.inputError
  | .okMessage =>
    match s.k.bind FrameKind.toData, InFrame.parse s.buf with
    | some d, some f => if s.nextTxFails then some .transport else decodeErrorClass (decodeFrame s.cfg d f)
    | _, _ => none
  | .crcFailure => if s.nextTxFails then some .transport else none
  | .readTokenReceived => if s.nextTxFails then some .transport else none
  | .writeTokenReceived => if s.nextTxFails then some .transport else none
  | _ => none

end State

end Sys2Proof.Machine
end

