-- ==== Sys2Proof/Machine/Fetch.lean ====
section
/-! DEFINITION. Fetching: what the next step of the machine is (20_memory.md R57, 41_bus_arbiter.md R140). The head
of `sched` names the agent that moves. HOST's move carries its command word; ARB's instruction is the valid frame
in `buf`, or the word it is about to write to the TX port; its other steps carry none (log entries 2 and 8). -/

namespace Sys2Proof.Machine

open Sys2Proof

/-- What a step has fetched: an instruction with the state it runs in, or a step without one. -/
inductive Fetched where
  | instr (i : Instr) (s : State)
  | done (r : Result)

/-- The step of a token state, R150, R151: the outbound instruction that answers the token, or the service
itself where the queued frame is no encoding (its contents are not checked, R183). -/
def fetchService (q : List Bytes) (serve : State → State) (s : State) : Fetched :=
  match decodeTx s.cfg (State.tokenAnswer q) with
  | some i => .instr i s
  | none => .done (.next (serve s))

/-- ARB's move, R140. -/
def fetchArb (s : State) : Fetched :=
  match s.state with
  | .waitStart => .done (inputStep s)
  | .waitData => .done (inputStep s)
  | .okMessage =>
    match s.k, InFrame.parse s.buf with
    | some kd, some f => .instr (rxInstr kd f) s
    | _, _ => .done (.fault .readsNoValue)
  | .crcFailure => .instr .txNak s
  | .readTokenReceived => fetchService s.rdq State.serveReadToken s
  | .writeTokenReceived => fetchService s.wrq State.serveWriteToken s
  | .deliver => .done (deliverStep s)
  | .transportError => .done (reportStep s)
  | .stopped => .done (.next s)

/-- One agent's move, R57. -/
def fetchMove (m : Move) (s : State) : Fetched :=
  match m with
  | .arb => fetchArb s
  | .host hcw frame => .instr (decodeHost hcw frame) s
  | .dev d => .done (.next (State.devStep d s))

/-- The next step: refused under a configuration that breaks R8; nothing where no agent moves; else the move at
the head of the schedule. -/
def fetch (s : State) : Fetched :=
  if s.cfg.wf then
    match s.sched with
    | [] => .done (.next s)
    | m :: rest => fetchMove m { s with sched := rest }
  else .done (.refused .badConfig)

/-! ## Placing an instruction where the next step fetches it (log entry 14) -/

/-- A read token of this configuration with the checksum byte `cs`. -/
def tokenFrame (c : Config) (cmd cs : Byte) : Bytes := [startIn, reservedByte, c.primaryAddr, cmd, 0x00, cs]

/-- The right checksum of a token, R101. -/
def tokenCs (c : Config) (cmd : Byte) : Byte := xorsum [c.primaryAddr, cmd, 0x00]

/-- ARB in state `st` with `bytes` in the buffer and kind `kd` latched, ARB moving next. -/
def placeArb (st : ArbState) (bytes : Bytes) (kd : Option FrameKind) (s : State) : State :=
  { s with state := st, buf := bytes, k := kd, pend := none, ecause := none, sched := .arb :: s.sched }

/-- The kind latched with a buffer, R144. -/
def kindLatch (c : Config) (bytes : Bytes) : Option FrameKind :=
  match classify c bytes with
  | .valid kd => some kd
  | _ => none

/-- The state in which the next step fetches and runs the instruction of `w`: a host word heads the schedule; an
inbound frame stands complete in `buf` with ARB in OK_MESSAGE; NAK is CRC_FAILURE's write; ACK answers a read
token with `rdq` empty; any other outbound word heads the queue of the token being served. -/
def placeWord (s : State) (w : PortWord) : State :=
  match w with
  | .host hcw frame => { s with sched := .host hcw frame :: s.sched }
  | .rx bytes => placeArb .okMessage bytes (kindLatch s.cfg bytes) s
  | .tx bytes =>
    if bytes = [nakByte] then
      placeArb .crcFailure (tokenFrame s.cfg cmdReadToken (tokenCs s.cfg cmdReadToken ^^^ 1)) none s
    else if bytes.length = 10 then
      placeArb .writeTokenReceived (tokenFrame s.cfg s.cfg.cmdWriteToken (tokenCs s.cfg s.cfg.cmdWriteToken))
        (some .writeToken) { s with wrq := bytes :: s.wrq }
    else
      placeArb .readTokenReceived (tokenFrame s.cfg cmdReadToken (tokenCs s.cfg cmdReadToken)) (some .readToken)
        { s with rdq := if bytes = [ackByte] then [] else bytes :: s.rdq }

end Sys2Proof.Machine
end

