-- ==== Sys2Proof/Machine/Step.lean ====
section
/-! DEFINITION. One step of the machine: one atomic transition of one agent (00_scope.md R6, 20_memory.md R57). -/

namespace Sys2Proof.Machine

open Sys2Proof

/-- One step: fetch, and run what was fetched. -/
def step (s : State) : Host.Outcome State Fault Refusal :=
  match fetch s with
  | .instr i t => exec i t
  | .done r => r

/-- `s` with a table row's word where the next step fetches it (log entry 14). -/
def State.withFetchWord (s : State) (nbits w : Nat) : State := placeWord s (tableWord nbits w)

end Sys2Proof.Machine
end

