-- ==== Sys2Proof/Machine/Stimulus.lean ====
section
/-! DEFINITION. The stimulus syntax and pseudo-instructions of 30_encoding.md R89 and R90, and the eager schedule
under which a stimulus line runs. It is one schedule among those R57 admits, and no rule of the block rests on it
(log entry 20). -/

namespace Sys2Proof.Machine

open Sys2Proof

/-- A stimulus line, R89. -/
inductive Line where
  | host (hcw : Hcw) (frame : Bytes)
  | rx (bytes : Bytes)
  | rxFail
  | txFail (sent : Nat)
  | lsnPop
  deriving DecidableEq, Repr

/-- The moves of a line, each to be followed by ARB's eager steps, R89. -/
def Line.moves : Line → List Move
  | .host hcw frame => [.host hcw frame]
  | .rx bytes => bytes.map (fun b => .dev (.offer (.byte b)))
  | .rxFail => [.dev (.offer .fail)]
  | .txFail sent => [.dev (.answer (.fail sent))]
  | .lsnPop => [.host (opHcw 8) []]

/-- `RXFRAME a c [p…]`, R90: no stuffing is added. -/
def rxFrame (a cmd : Byte) (payload : Bytes) : Line :=
  .rx (InFrame.bytes ⟨a, cmd, payload, xorsum (a :: cmd :: BitVec.ofNat 8 payload.length :: payload)⟩)

/-- `RXTOKEN R`, R90. -/
def rxTokenR : Line := rxFrame 0x20 cmdReadToken []

/-- `RXTOKEN W`, R90. -/
def rxTokenW (c : Config) : Line := rxFrame 0x20 c.cmdWriteToken []

/-- `REQREAD addr`, R90: the frame BUILD_READ returns is the one ENQ_READ carries. -/
def reqRead (c : Config) (addr : RegAddr) : List Line :=
  [.host (mkHcw 0 addr false 0 5) [], .host (opHcw 3) (buildReadRequest c addr)]

/-- `REQWRITE addr value width`, R90, with `width` given by its WCODE; a WCODE without a width builds no frame. -/
def reqWrite (c : Config) (addr : RegAddr) (value : Value) (wcode : BitVec 2) : List Line :=
  .host (mkHcw value addr false wcode 6) [] ::
    (match wcodeBytes wcode with
      | none => []
      | some n => [.host (opHcw 4) (buildWriteRequest c addr value n false)])

/-- `n` steps at most of ARB alone, as long as it has an enabled one (R140). -/
def settle : Nat → State → Result
  | 0, s => .next s
  | n + 1, s =>
    if s.arbEnabled then
      match step { s with sched := [.arb] } with
      | .next t => settle n t
      | .fault r => .fault r
      | .refused r => .refused r
    else .next s

/-- A bound on ARB's steps before it waits again: four for each input at the port, and four more. -/
def settleFuel (s : State) : Nat := 4 * s.rxPort.length + 4

/-- The moves of a line under the eager schedule, R89: after each move ARB takes every step it can. -/
def runMoves : List Move → State → Result
  | [], s => .next s
  | m :: rest, s =>
    match step { s with sched := [m] } with
    | .next t =>
      match settle (settleFuel t) t with
      | .next u => runMoves rest u
      | .fault r => .fault r
      | .refused r => .refused r
    | .fault r => .fault r
    | .refused r => .refused r

/-- A stimulus program under the eager schedule, R89. -/
def runLines (ls : List Line) (s : State) : Result := runMoves (ls.flatMap Line.moves) s

end Sys2Proof.Machine
end

