-- ==== Sys2Proof/Safety.lean ====
section
/-! DEFINITION. The terms claims are stated in: the invariant of every reachable state (10_state.md R22 to R29, R35),
the transition table of 41_bus_arbiter.md R157, and the sender's side of byte stuffing (00_scope.md R13). -/

namespace Sys2Proof

/-- Byte stuffing as the device does it, R13: each payload byte 0x5C is sent twice. -/
def stuff : Bytes → Bytes
  | [] => []
  | b :: rest => if b = startIn then startIn :: startIn :: stuff rest else b :: stuff rest

/-- A broadcast record as transmitted, R81: a 16-bit address and a 16-bit raw value, little-endian. -/
def recordBytes (r : RegAddr × BitVec 16) : Bytes := bytesLe r.1 2 ++ bytesLe r.2 2

/-- Every host command of the opcode table: what the command port can carry. -/
def Instr.isHost : Instr → Bool
  | .connect => true
  | .disconnect => true
  | .enqRead _ => true
  | .enqWrite _ => true
  | .buildRead _ => true
  | .buildWrite _ _ _ _ => true
  | .status => true
  | .eventPop => true
  | .reservedOp _ => true
  | .rxReadToken _ => false
  | .rxWriteToken _ => false
  | .rxBroadcast _ => false
  | .rxReadResp _ => false
  | .rxWriteResp _ => false
  | .rxAuxBroadcast _ => false
  | .rxOther _ => false
  | .txReadReq _ => false
  | .txWriteReq _ _ => false
  | .txAck => false
  | .txNak => false

namespace Machine.State

open Sys2Proof

/-! ## The invariant -/

/-- A length within a capacity (none is ∞), R28, R29. -/
def withinCap (cap : Option Nat) (n : Nat) : Bool :=
  match cap with
  | none => true
  | some m => decide (n ≤ m)

/-- R28: at most Q_CAP frames, each of 1 to FRAME_MAX bytes. -/
def queueWf (c : Config) (q : List Bytes) : Bool := withinCap c.qCap q.length && q.all (frameOk c)

/-- The storage is within its bounds, R22, R28, R29. -/
def storageWf (s : State) : Bool :=
  decide (s.buf.length ≤ s.cfg.bufCap) && queueWf s.cfg s.rdq && queueWf s.cfg s.wrq
    && withinCap s.cfg.evqCap s.evq.length

/-- `pend` and `ecause` hold no value, R25, R26. -/
def noEvent (s : State) : Bool := decide (s.pend = none) && decide (s.ecause = none)

/-- `buf` holds one complete frame that `classify` answers `v` on. -/
def frameIs (s : State) (v : Verdict) : Bool :=
  decide (classify s.cfg s.buf = v) && (InFrame.parse s.buf).isSome

/-- DELIVER holds the decoded event of the data frame in `buf`, R24, R25, R148. -/
def deliverWf (s : State) : Bool :=
  match s.k.bind FrameKind.toData, InFrame.parse s.buf with
  | some d, some f => s.frameIs (.valid d.kind) && decide (s.pend = some (decodeFrame s.cfg d f))
  | _, _ => false

/-- TRANSPORT_ERROR holds its event and the cause, R25, R26. -/
def errorWf (s : State) : Bool :=
  match s.ecause with
  | some cause => decide (s.pend = some (.transportError cause))
  | none => false

/-- OK_MESSAGE holds a valid frame and its kind, R21, R24. -/
def okWf (s : State) : Bool :=
  match s.k with
  | some kd => s.frameIs (.valid kd)
  | none => false

/-- Which of `buf`, `k`, `pend`, `ecause` and `cancel_req` hold what in each arbiter state, R21 to R27. -/
def latchesWf (s : State) : Bool :=
  match s.state with
  | .waitStart => decide (s.buf = []) && decide (s.k = none) && s.noEvent
  | .waitData =>
    decide (s.buf ≠ []) && decide (classify s.cfg s.buf = .incomplete) && decide (s.k = none) && s.noEvent
  | .okMessage => s.okWf && s.noEvent
  | .crcFailure => s.frameIs .checksumFailure && decide (s.k = none) && s.noEvent
  | .readTokenReceived => s.frameIs (.valid .readToken) && decide (s.k = some .readToken) && s.noEvent
  | .writeTokenReceived => s.frameIs (.valid .writeToken) && decide (s.k = some .writeToken) && s.noEvent
  | .deliver => s.deliverWf && decide (s.ecause = none)
  | .transportError => decide (s.buf = []) && decide (s.k = none) && s.errorWf
  | .stopped => decide (s.buf = []) && decide (s.k = none) && s.noEvent && !s.cancelReq

/-- The invariant: a well-formed configuration (R8), storage within its bounds, and every latch holding a value
exactly where the spec says it does. -/
def inv (s : State) : Bool := s.cfg.wf && s.storageWf && s.latchesWf

/-! ## The transition table of R157 -/

/-- `s` with every element that holds no value in WAIT_START cleared, R23 to R26 (log entry 7). -/
def cleared (s : State) : State := { s with buf := [], k := none, pend := none, ecause := none }

/-- The state after a TX write of `w` that DEV answered TxOk, R54. -/
def sentOk (w : Bytes) (s : State) : State :=
  { s with txTrace := s.txTrace ++ w, txAnswers := s.txAnswers.tail }

/-- The state after a TX write of `w` that DEV answered TxFail with `n` bytes sent, R54 and R152. -/
def sentFail (w : Bytes) (n : Nat) (s : State) : State :=
  { s.cleared with txTrace := s.txTrace ++ w.take n, txAnswers := s.txAnswers.tail,
                   pend := some (.transportError .tx), ecause := some .tx, state := .transportError }

end Machine.State

namespace Machine

open Sys2Proof

/-- The rows of R157 below CONNECT, one constructor each (a TX row has one for each answer of DEV): ARB's step from
the state on the left gives the state on the right. -/
inductive Transition (s : State) : State → Prop
  | cancel : s.state = .waitStart ∨ s.state = .waitData → s.cancelReq = true →
      Transition s { s.cleared with cancelReq := false, state := .stopped }
  | rxFail (rest) : s.state = .waitStart ∨ s.state = .waitData → s.cancelReq = false →
      s.rxPort = .fail :: rest →
      Transition s { s.cleared with rxPort := rest, pend := some (.transportError .rx), ecause := some .rx,
                                    state := .transportError }
  | discard (b rest) : s.state = .waitStart → s.cancelReq = false → s.rxPort = .byte b :: rest →
      b ≠ 0x5C → Transition s { s with rxPort := rest }
  | startMarker (rest) : s.state = .waitStart → s.cancelReq = false → s.rxPort = .byte 0x5C :: rest →
      Transition s { s with rxPort := rest, buf := [0x5C], state := .waitData }
  | incomplete (b rest) : s.state = .waitData → s.cancelReq = false → s.rxPort = .byte b :: rest →
      classify s.cfg (s.buf ++ [b]) = .incomplete →
      Transition s { s with rxPort := rest, buf := s.buf ++ [b] }
  | invalid (b rest) : s.state = .waitData → s.cancelReq = false → s.rxPort = .byte b :: rest →
      classify s.cfg (s.buf ++ [b]) = .invalid →
      Transition s { s.cleared with rxPort := rest, state := .waitStart }
  | badChecksum (b rest) : s.state = .waitData → s.cancelReq = false → s.rxPort = .byte b :: rest →
      classify s.cfg (s.buf ++ [b]) = .checksumFailure →
      Transition s { s with rxPort := rest, buf := s.buf ++ [b], state := .crcFailure }
  | valid (b rest kd) : s.state = .waitData → s.cancelReq = false → s.rxPort = .byte b :: rest →
      classify s.cfg (s.buf ++ [b]) = .valid kd →
      Transition s { s with rxPort := rest, buf := s.buf ++ [b], k := some kd, state := .okMessage }
  | nakOk : s.state = .crcFailure → s.nextTxFails = false →
      Transition s { (s.sentOk [0x15]).cleared with state := .waitStart }
  | nakFail (n rest) : s.state = .crcFailure → s.txAnswers = .fail n :: rest →
      Transition s (s.sentFail [0x15] n)
  | readToken : s.state = .okMessage → s.k = some .readToken →
      Transition s { s with state := .readTokenReceived }
  | writeToken : s.state = .okMessage → s.k = some .writeToken →
      Transition s { s with state := .writeTokenReceived }
  | dataOk (d f) : s.state = .okMessage → s.k = some (DataKind.kind d) → InFrame.parse s.buf = some f →
      s.nextTxFails = false →
      Transition s { s.sentOk [0x06] with pend := some (decodeFrame s.cfg d f), state := .deliver }
  | dataFail (d n rest) : s.state = .okMessage → s.k = some (DataKind.kind d) → s.txAnswers = .fail n :: rest →
      Transition s (s.sentFail [0x06] n)
  | deliver (e) : s.state = .deliver → s.evqRoom = true → s.pend = some e →
      Transition s { s.cleared with evq := s.evq ++ [e], state := .waitStart }
  | serveReadOk : s.state = .readTokenReceived → s.nextTxFails = false →
      Transition s { (s.sentOk (s.rdq.headD [0x06])).cleared with rdq := s.rdq.tail, state := .waitStart }
  | serveReadFail (n rest) : s.state = .readTokenReceived → s.txAnswers = .fail n :: rest →
      Transition s { s.sentFail (s.rdq.headD [0x06]) n with rdq := s.rdq.tail }
  | serveWriteOk : s.state = .writeTokenReceived → s.nextTxFails = false →
      Transition s { (s.sentOk (s.wrq.headD [0x06])).cleared with wrq := s.wrq.tail, state := .waitStart }
  | serveWriteFail (n rest) : s.state = .writeTokenReceived → s.txAnswers = .fail n :: rest →
      Transition s { s.sentFail (s.wrq.headD [0x06]) n with wrq := s.wrq.tail }
  | report (e) : s.state = .transportError → s.evqRoom = true → s.pend = some e →
      Transition s { s.cleared with evq := s.evq ++ [e], cancelReq := false, state := .stopped }

end Machine

end Sys2Proof
end

