-- ==== Sys2Proof/Certificates/Slice0/Obligations.lean ====
section
/-! DEFINITION. The statements for the provers. Each formalises rules of spec/ over every configuration and every
state, in the terms of Safety.lean; OBLIGATIONS.json says which. -/

open Sys2Proof Sys2Proof.Machine

/-! ## Encoding -/

/-- Decode and encode agree on every well-formed instruction, with every operand the encoding admits (R70, R73,
R74, R84, R85). -/
def Obligations.DecodeOfEncodeIsTheInstruction : Prop :=
  ∀ (c : Config) (i : Instr), i.wellFormed c = true → decode c (encode c i) = .ok i

/-- The other direction on the two wire ports, where each word has one meaning (R70, R73, R103): what decodes is
well-formed and encodes to the word it came from. -/
def Obligations.WireWordsHaveOneMeaning : Prop :=
  ∀ (c : Config) (i : Instr) (bytes : Bytes),
    (decode c (.rx bytes) = .ok i → i.wellFormed c = true ∧ encode c i = .rx bytes) ∧
    (decode c (.tx bytes) = .ok i → encode c i = .tx bytes)

/-- R180, with the codes of R85: a word with a nonzero reserved field or a reserved OP answers ILLEGAL and changes
nothing else; every other word is dispatched on OP to its command, with the fields of R84. -/
def Obligations.HostCommandDispatch : Prop :=
  ∀ (h : Hcw) (frame : Bytes),
    ((h.extractLsb' 7 9 ≠ 0 ∨ h.extractLsb' 0 4 = 0 ∨ 9 ≤ (h.extractLsb' 0 4).toNat) →
      decodeHost h frame = .reservedOp h ∧
      ∀ s : State, exec (.reservedOp h) s = .next { s with resp := some ⟨.illegal, .none⟩ }) ∧
    (h.extractLsb' 7 9 = 0 →
      (h.extractLsb' 0 4 = 1 → decodeHost h frame = .connect) ∧
      (h.extractLsb' 0 4 = 2 → decodeHost h frame = .disconnect) ∧
      (h.extractLsb' 0 4 = 3 → decodeHost h frame = .enqRead frame) ∧
      (h.extractLsb' 0 4 = 4 → decodeHost h frame = .enqWrite frame) ∧
      (h.extractLsb' 0 4 = 5 → decodeHost h frame = .buildRead (h.extractLsb' 16 16)) ∧
      (h.extractLsb' 0 4 = 6 → decodeHost h frame =
        .buildWrite (h.extractLsb' 16 16) (h.extractLsb' 32 32) (h.extractLsb' 4 2) (h.getLsbD 6)) ∧
      (h.extractLsb' 0 4 = 7 → decodeHost h frame = .status) ∧
      (h.extractLsb' 0 4 = 8 → decodeHost h frame = .eventPop))

/-- Words written out from the spec's encodings decode to the instructions they stand for: a read token at 0x20
(R70, R77) under every configuration of R8 with PRIMARY_ADDR 0x20; host words of R84; and, under the reference
assignment (log entry 1), one frame or word of each other family. -/
def Obligations.WrittenOutWordsDecode : Prop :=
  (∀ c : Config, c.wf = true → c.primaryAddr = 0x20 →
    decode c (.rx [0x5C, 0x00, 0x20, 0x69, 0x00, 0x49]) = .ok (.rxReadToken ⟨0x20, 0x69, [], 0x49⟩)) ∧
  decodeHost 0x0000000000000001 [] = .connect ∧
  decodeHost 0xFFFFFFFB9C4D0056 [] = .buildWrite 40013 0xFFFFFFFB 1 true ∧
  decodeHost 0x000000009C4D0005 [] = .buildRead 40013 ∧
  decode Config.reference (.rx [0x5C, 0x00, 0x20, 0x6C, 0x01, 0x11, 0xC5]) =
    .ok (.rxWriteResp ⟨0x20, 0x6C, [0x11], 0xC5⟩) ∧
  decode Config.reference (.tx [0xC0, 0x69, 0x02, 0x4D, 0x9C, 0x7A]) = .ok (.txReadReq 40013) ∧
  decode Config.reference (.tx [0x06]) = .ok .txAck ∧
  decode Config.reference (.tx [0x15]) = .ok .txNak

/-- R72 and R83: only offset 4 carries length, and a frame is complete after exactly `N + 6` raw bytes. Every
proper part of a well-formed frame is Incomplete, and the whole frame is Valid of its kind. -/
def Obligations.FrameIsCompleteAtItsDeclaredLength : Prop :=
  ∀ (c : Config) (kd : FrameKind) (f : InFrame), f.wellFormed c kd = true →
    f.bytes.length = f.payload.length + 6 ∧
    classify c f.bytes = .valid kd ∧
    ∀ n, 0 < n → n < f.payload.length + 6 → classify c (f.bytes.take n) = .incomplete

/-- R51 and R10: `bytes_le` puts the less significant byte at the lower offset, and the little-endian readings
invert it. -/
def Obligations.FieldsAreLittleEndian : Prop :=
  (∀ (w n : Nat) (v : BitVec w), (bytesLe v n).length = n ∧ leNat (bytesLe v n) = v.toNat % 2 ^ (8 * n)) ∧
  (∀ b0 b1 : Byte, (le16 b0 b1).toNat = b0.toNat + 256 * b1.toNat) ∧
  (∀ b0 b1 b2 b3 : Byte, (le32 b0 b1 b2 b3).toNat =
    b0.toNat + 256 * b1.toNat + 65536 * b2.toNat + 16777216 * b3.toNat)

/-! ## Codec -/

/-- R101: the checksum of the empty sequence is 0, each further byte is XORed in, the order does not matter, and
a byte that appears twice cancels itself. -/
def Obligations.ChecksumIsAnXor : Prop :=
  xorsum [] = 0 ∧
  (∀ (s : Bytes) (b : Byte), xorsum (s ++ [b]) = xorsum s ^^^ b) ∧
  (∀ s t : Bytes, s.Perm t → xorsum s = xorsum t) ∧
  (∀ (s t : Bytes) (b : Byte), xorsum (s ++ [b, b] ++ t) = xorsum (s ++ t))

/-- R102: the trailing byte passes when it is the XOR of offsets 2 to 4+N, or when that XOR is 0x5C and the byte is
0xC5; offsets 0 and 1 are not covered. -/
def Obligations.ChecksumAliasOnlyForStartMarker : Prop :=
  ∀ (b0 b1 t : Byte) (covered : Bytes) (n : Nat), covered.length = n + 3 →
    (verifyChecksum (b0 :: b1 :: (covered ++ [t])) n = true ↔
      t = xorsum covered ∨ (xorsum covered = 0x5C ∧ t = 0xC5))

/-- R103 with the priority of R227 (2): a wrong marker, then a wrong reserved byte, then an implausible length,
then completeness, then the checksum, then the kind. -/
def Obligations.ClassifyChecksInOrder : Prop :=
  ∀ (c : Config) (b0 b1 a cmd n : Byte) (rest : Bytes),
    (b0 ≠ 0x5C → classify c (b0 :: rest) = .invalid) ∧
    classify c [0x5C] = .incomplete ∧
    (b1 ≠ 0x00 → classify c (0x5C :: b1 :: rest) = .invalid) ∧
    (rest.length < 3 → classify c (0x5C :: 0x00 :: rest) = .incomplete) ∧
    (c.bufCap < n.toNat + 6 → classify c (0x5C :: 0x00 :: a :: cmd :: n :: rest) = .invalid) ∧
    (n.toNat + 6 ≤ c.bufCap → rest.length < n.toNat + 1 →
      classify c (0x5C :: 0x00 :: a :: cmd :: n :: rest) = .incomplete) ∧
    (n.toNat + 6 ≤ c.bufCap → n.toNat + 1 ≤ rest.length →
      classify c (0x5C :: 0x00 :: a :: cmd :: n :: rest) =
        if verifyChecksum (0x5C :: 0x00 :: a :: cmd :: n :: rest.take (n.toNat + 1)) n.toNat
        then .valid (kindOf c a cmd) else .checksumFailure)

/-- R78: the codes of the kinds, 7 never among them; and under R8 each FrameKind is selected by exactly its own row,
so the rows are mutually exclusive. -/
def Obligations.KindRowsAreExclusive : Prop :=
  FrameKind.broadcast.code = 0 ∧ FrameKind.readResp.code = 1 ∧ FrameKind.writeResp.code = 2 ∧
  FrameKind.readToken.code = 3 ∧ FrameKind.writeToken.code = 4 ∧ FrameKind.auxBroadcast.code = 5 ∧
  FrameKind.other.code = 6 ∧ (∀ kd : FrameKind, kd.code ≠ 7) ∧
  ∀ (c : Config) (a cmd : Byte), c.wf = true →
    (kindOf c a cmd = .broadcast ↔ a = c.primaryAddr ∧ cmd = c.cmdBroadcast) ∧
    (kindOf c a cmd = .readResp ↔ a = c.primaryAddr ∧ cmd = c.cmdReadResp) ∧
    (kindOf c a cmd = .writeResp ↔ a = c.primaryAddr ∧ cmd = c.cmdWriteResp) ∧
    (kindOf c a cmd = .readToken ↔ a = c.primaryAddr ∧ cmd = 0x69) ∧
    (kindOf c a cmd = .writeToken ↔ a = c.primaryAddr ∧ cmd = c.cmdWriteToken) ∧
    (kindOf c a cmd = .auxBroadcast ↔ a = c.auxAddr ∧ (c.auxCmd = none ∨ c.auxCmd = some cmd)) ∧
    (kindOf c a cmd = .other ↔
      ¬ (a = c.primaryAddr ∧ (cmd = c.cmdBroadcast ∨ cmd = c.cmdReadResp ∨ cmd = c.cmdWriteResp ∨ cmd = 0x69 ∨
          cmd = c.cmdWriteToken)) ∧
      ¬ (a = c.auxAddr ∧ (c.auxCmd = none ∨ c.auxCmd = some cmd)))

/-- R105: pairs do not overlap, so a run of `2m` bytes 0x5C becomes a run of `m` and a run of `2m+1` becomes `m+1`;
a sequence with no pair is kept; and the scan undoes byte stuffing, whatever byte follows. -/
def Obligations.PairCollapseOfRunsAndStuffing : Prop :=
  (∀ m : Nat, collapsePairs (List.replicate (2 * m) 0x5C) = List.replicate m 0x5C ∧
    collapsePairs (List.replicate (2 * m + 1) 0x5C) = List.replicate (m + 1) 0x5C) ∧
  (∀ s : Bytes, (∀ x y : Bytes, s ≠ x ++ [0x5C, 0x5C] ++ y) → collapsePairs s = s) ∧
  (∀ (s : Bytes) (b : Byte), collapsePairs (stuff s ++ [b]) = s ++ [b])

/-- R104, R105 and R110: where a frame's payload is `p` stuffed and its kind and length call for destuffing, the
decoders read exactly `p`, under either DESTUFF_SCOPE. The header hypotheses shut out the literal scan's pairs
inside the header and at its end (R105's corner cases, 93_implementation_defined.md K1). -/
def Obligations.DestuffingRecoversThePayload : Prop :=
  ∀ (c : Config) (kd : FrameKind) (f : InFrame) (p : Bytes),
    f.payload = stuff p → needsDestuff c kd f.payload.length = true →
    f.payload.length < 256 → f.payload.length ≠ 0x5C → ¬ (f.addr = 0x5C ∧ f.cmd = 0x5C) →
    effectivePayload c kd f = p

/-- R105: for `N ≥ 7` the effective length is `N` minus the pairs collapsed, which is `N` minus what the frame shrank
by, and it is at least 1; and the destuffed payload has the effective length. -/
def Obligations.EffectiveLengthIsDeclaredMinusPairs : Prop :=
  ∀ (c : Config) (kd : FrameKind) (f : InFrame), f.payload.length < 256 →
    (7 ≤ f.payload.length →
      (removeByteStuffing c f).2 + f.bytes.length =
        (removeByteStuffing c f).1.length + f.payload.length ∧
      1 ≤ (removeByteStuffing c f).2) ∧
    (needsDestuff c kd f.payload.length = true →
      (effectivePayload c kd f).length = (removeByteStuffing c f).2)

/-- R104 with the thresholds of R80: under R80's values the test is R104's; and under any values a frame is destuffed
exactly when its kind has a threshold below `N` (93_implementation_defined.md P3). -/
def Obligations.DestuffThresholdPerKind : Prop :=
  ∀ (c : Config) (n : Nat),
    (c.tBroadcast = 0x50 → c.tReadResp = 0x06 → c.tAux = 0x18 → ∀ kd : FrameKind,
      (needsDestuff c kd n = true ↔
        (kd = .broadcast ∧ 0x50 < n) ∨ (kd = .readResp ∧ 0x06 < n) ∨ (kd = .auxBroadcast ∧ 0x18 < n))) ∧
    (needsDestuff c .broadcast n = true ↔ c.tBroadcast.toNat < n) ∧
    (needsDestuff c .readResp n = true ↔ c.tReadResp.toNat < n) ∧
    (needsDestuff c .auxBroadcast n = true ↔ c.tAux.toNat < n) ∧
    needsDestuff c .writeResp n = false ∧ needsDestuff c .readToken n = false ∧
    needsDestuff c .writeToken n = false ∧ needsDestuff c .other n = false

/-- R106: a broadcast gives one register value for each full record whose address is not 0xFFFF, in order, with
the value sign-extended from 16 bits; the bytes after the last full record are ignored. -/
def Obligations.BroadcastKeepsEveryRecordButPadding : Prop :=
  ∀ (rs : List (RegAddr × BitVec 16)) (tail : Bytes), tail.length < 4 →
    decodeBroadcast (rs.flatMap recordBytes ++ tail) =
      (rs.filter (fun r => r.1 != 0xFFFF)).map (fun r => ⟨r.1, r.2.signExtend 32⟩)

/-- R107 and R109: a read response of fewer than 6 bytes is a DecodeError; otherwise the address is at payload
offset 0 and the value at 2, every later byte is ignored, and every (address, value) pair round-trips. An empty
write acknowledge is a DecodeError; otherwise it is whether the first byte is 1. -/
def Obligations.FixedOffsetDecodersReadTheirBytes : Prop :=
  (∀ p : Bytes, p.length < 6 → decodeReadResponse p = none) ∧
  (∀ (a : RegAddr) (v : Value) (rest : Bytes),
    decodeReadResponse (bytesLe a 2 ++ bytesLe v 4 ++ rest) = some [⟨a, v⟩]) ∧
  decodeWriteAck [] = none ∧
  (∀ (b : Byte) (rest : Bytes), decodeWriteAck (b :: rest) = some (decide (b = 0x01)))

/-- R108: a DecodeError exactly when some field lies past `N'`; otherwise one value for each field in list order, from
the field's bytes. A value of `w` bytes is their little-endian number, read as two's complement of `8w` bits where
the field is signed; an unsigned one of 4 bytes is held as its 32 bits (log entry 9). -/
def Obligations.AuxiliaryDecodeReadsOnlyItsFields : Prop :=
  (∀ s : Bytes, s.length = 1 ∨ s.length = 2 ∨ s.length = 4 →
    (fieldValue false s).toNat = leNat s ∧
    (fieldValue true s).toInt =
      if 2 * leNat s < 256 ^ s.length then (leNat s : Int) else (leNat s : Int) - 256 ^ s.length) ∧
  ∀ (c : Config) (p : Bytes),
    (decodeAuxBroadcast c p = none ↔ ∃ fd ∈ c.auxFields, p.length < fd.off + fd.w) ∧
    ((∀ fd ∈ c.auxFields, fd.off + fd.w ≤ p.length) →
      decodeAuxBroadcast c p =
        some (c.auxFields.map (fun fd => ⟨fd.reg, fieldValue fd.sgn ((p.drop fd.off).take fd.w)⟩)))

/-- R110 and R223: `decodeFrame` answers DECODE_ERROR exactly for a read response with `N' < 6`, a write response
with `N' = 0`, and an auxiliary broadcast with a field past `N'`; it is never an error for a broadcast or an
OTHER frame, and OTHER carries the raw frame. -/
def Obligations.DecodeErrorsAreExactlyTheShortPayloads : Prop :=
  ∀ (c : Config) (d : DataKind) (f : InFrame) (kd : FrameKind),
    (decodeFrame c d f = .decodeError kd ↔
      kd = d.kind ∧
      ((d = .readResp ∧ (effectivePayload c d.kind f).length < 6) ∨
       (d = .writeResp ∧ (effectivePayload c d.kind f).length = 0) ∨
       (d = .auxBroadcast ∧ ∃ fd ∈ c.auxFields, (effectivePayload c d.kind f).length < fd.off + fd.w))) ∧
    decodeFrame c .other f = .frame .other (.raw f.bytes) ∧
    decodeFrame c .broadcast f = .frame .broadcast (.regs (decodeBroadcast (effectivePayload c .broadcast f)))

/-- R110 with R88: the payload that the decoders read is destuffed where R104 says so and raw elsewhere; a decoded frame
is the FRAME event of its kind with the decoder's body, and a decoder's error is DECODE_ERROR of the kind. -/
def Obligations.DecodeFrameDispatchesOnTheKind : Prop :=
  ∀ (c : Config) (f : InFrame),
    (∀ kd, effectivePayload c kd f =
      if needsDestuff c kd f.payload.length then
        ((removeByteStuffing c f).1.drop 5).take (removeByteStuffing c f).2 else f.payload) ∧
    decodeFrame c .broadcast f = .frame .broadcast (.regs (decodeBroadcast (effectivePayload c .broadcast f))) ∧
    (∀ rs, decodeReadResponse (effectivePayload c .readResp f) = some rs →
      decodeFrame c .readResp f = .frame .readResp (.regs rs)) ∧
    (decodeReadResponse (effectivePayload c .readResp f) = none → decodeFrame c .readResp f = .decodeError .readResp) ∧
    (∀ rs, decodeAuxBroadcast c (effectivePayload c .auxBroadcast f) = some rs →
      decodeFrame c .auxBroadcast f = .frame .auxBroadcast (.regs rs)) ∧
    (decodeAuxBroadcast c (effectivePayload c .auxBroadcast f) = none →
      decodeFrame c .auxBroadcast f = .decodeError .auxBroadcast) ∧
    (∀ b, decodeWriteAck (effectivePayload c .writeResp f) = some b →
      decodeFrame c .writeResp f = .frame .writeResp (.ack b)) ∧
    (decodeWriteAck (effectivePayload c .writeResp f) = none → decodeFrame c .writeResp f = .decodeError .writeResp) ∧
    decodeFrame c .other f = .frame .other (.raw f.bytes)

/-- R111 and R112 with R73 and R82: the bytes of the two requests. The value field holds the low `width/8` bytes
and zeros after them, `signed` changes no byte, and the last byte is the XOR of all before it. -/
def Obligations.BuiltRequestsHaveTheirLayout : Prop :=
  ∀ (c : Config) (a : RegAddr) (v : Value),
    buildReadRequest c a = [0xC0, c.cmdReadReq, 0x02, a.extractLsb' 0 8, a.extractLsb' 8 8,
      0xC2 ^^^ c.cmdReadReq ^^^ a.extractLsb' 0 8 ^^^ a.extractLsb' 8 8] ∧
    (∀ (n : Nat) (sgn sgn' : Bool), n = 1 ∨ n = 2 ∨ n = 4 →
      buildWriteRequest c a v n sgn = buildWriteRequest c a v n sgn' ∧
      xorsum (buildWriteRequest c a v n sgn) = 0 ∧
      (buildWriteRequest c a v n sgn).length = 10 ∧
      (buildWriteRequest c a v n sgn).take 9 =
        [0xC0, c.cmdWriteReq, 0x06, a.extractLsb' 0 8, a.extractLsb' 8 8, v.extractLsb' 0 8,
          if 2 ≤ n then v.extractLsb' 8 8 else 0, if n = 4 then v.extractLsb' 16 8 else 0,
          if n = 4 then v.extractLsb' 24 8 else 0])

/-! ## Host commands -/

/-- R181: CONNECT in STOPPED answers OK and enters WAIT_START with `len = 0` and `cancel_req = 0`, the queues and
`evq` as they were; in every other state it answers BUSY and changes nothing else. That the latches hold no value
in WAIT_START and STOPPED is coded by clearing them on entry, here and below (R24 to R26, log entry 7). -/
def Obligations.ConnectOnlyFromStopped : Prop :=
  ∀ s : State,
    (s.state = .stopped → exec .connect s =
      .next { s with state := .waitStart, buf := [], k := none, pend := none, ecause := none,
                     cancelReq := false, resp := some ⟨.ok, .none⟩ }) ∧
    (s.state ≠ .stopped → exec .connect s = .next { s with resp := some ⟨.busy, .none⟩ })

/-- R182: DISCONNECT answers OK at once; it sets `cancel_req`, and in STOPPED it has no effect. -/
def Obligations.DisconnectOnlySetsCancelReq : Prop :=
  ∀ s : State,
    (s.state = .stopped → exec .disconnect s = .next { s with resp := some ⟨.ok, .none⟩ }) ∧
    (s.state ≠ .stopped →
      exec .disconnect s = .next { s with cancelReq := true, resp := some ⟨.ok, .none⟩ })

/-- R183 and R184: an enqueue in every arbiter state answers ILLEGAL for a FRAME whose length is not 1 to FRAME_MAX,
else QFULL for a full queue, else the frame, its contents unchecked, joins the tail of its queue: ENQ_READ's is
`rdq`, ENQ_WRITE's is `wrq`. -/
def Obligations.EnqueueAppendsOrRefuses : Prop :=
  ∀ (s : State) (frame : Bytes),
    ((frame.length < 1 ∨ s.cfg.frameMax < frame.length) →
      exec (.enqRead frame) s = .next { s with resp := some ⟨.illegal, .none⟩ } ∧
      exec (.enqWrite frame) s = .next { s with resp := some ⟨.illegal, .none⟩ }) ∧
    (1 ≤ frame.length → frame.length ≤ s.cfg.frameMax →
      (s.cfg.qCap = some s.rdq.length →
        exec (.enqRead frame) s = .next { s with resp := some ⟨.qfull, .none⟩ }) ∧
      ((s.cfg.qCap = none ∨ ∃ m, s.cfg.qCap = some m ∧ s.rdq.length < m) →
        exec (.enqRead frame) s = .next { s with rdq := s.rdq ++ [frame], resp := some ⟨.ok, .none⟩ }) ∧
      (s.cfg.qCap = some s.wrq.length →
        exec (.enqWrite frame) s = .next { s with resp := some ⟨.qfull, .none⟩ }) ∧
      ((s.cfg.qCap = none ∨ ∃ m, s.cfg.qCap = some m ∧ s.wrq.length < m) →
        exec (.enqWrite frame) s = .next { s with wrq := s.wrq ++ [frame], resp := some ⟨.ok, .none⟩ }))

/-- R185 and R186: the builder commands return the frame and change nothing else; WCODE 0, 1, 2 give the widths
8, 16, 32 and WCODE 3 answers ILLEGAL. -/
def Obligations.BuildCommandsReturnTheFrame : Prop :=
  ∀ (s : State) (a : RegAddr) (v : Value) (sgn : Bool),
    exec (.buildRead a) s = .next { s with resp := some ⟨.ok, .frame (buildReadRequest s.cfg a)⟩ } ∧
    exec (.buildWrite a v 0 sgn) s = .next { s with resp := some ⟨.ok, .frame (buildWriteRequest s.cfg a v 1 sgn)⟩ } ∧
    exec (.buildWrite a v 1 sgn) s = .next { s with resp := some ⟨.ok, .frame (buildWriteRequest s.cfg a v 2 sgn)⟩ } ∧
    exec (.buildWrite a v 2 sgn) s = .next { s with resp := some ⟨.ok, .frame (buildWriteRequest s.cfg a v 4 sgn)⟩ } ∧
    exec (.buildWrite a v 3 sgn) s = .next { s with resp := some ⟨.illegal, .none⟩ }

/-- R187 and R31 with the codes of R21: STATUS answers OK with the status word, changes nothing else, and each field of
the word is what R31's table says. STATE is the code of the arbiter state, 0 for WAIT_START to 8 for STOPPED. -/
def Obligations.StatusReadsEveryField : Prop :=
  ArbState.waitStart.code = 0x0 ∧ ArbState.waitData.code = 0x1 ∧ ArbState.okMessage.code = 0x2 ∧
  ArbState.crcFailure.code = 0x3 ∧ ArbState.readTokenReceived.code = 0x4 ∧
  ArbState.writeTokenReceived.code = 0x5 ∧ ArbState.deliver.code = 0x6 ∧
  ArbState.transportError.code = 0x7 ∧ ArbState.stopped.code = 0x8 ∧
  ∀ s : State, ∃ w : BitVec 32,
    exec .status s = .next { s with resp := some ⟨.ok, .word w⟩ } ∧
    w.extractLsb' 0 4 = s.state.code ∧
    w.getLsbD 4 = decide (s.state ≠ .stopped) ∧
    w.getLsbD 5 = s.cancelReq ∧
    w.getLsbD 6 = decide (s.rdq.length = 0) ∧
    w.getLsbD 7 = decide (s.wrq.length = 0) ∧
    w.getLsbD 8 = decide (0 < s.evq.length) ∧
    w.extractLsb' 9 7 = 0 ∧
    (w.extractLsb' 16 8).toNat = min s.rdq.length 255 ∧
    (w.extractLsb' 24 8).toNat = min s.wrq.length 255

/-- R188: EVENT_POP answers EMPTY on an empty `evq`, else it removes the head and returns it. -/
def Obligations.EventPopTakesTheHead : Prop :=
  ∀ s : State,
    (s.evq = [] → exec .eventPop s = .next { s with resp := some ⟨.empty, .none⟩ }) ∧
    (∀ (e : Event) (q : List Event), s.evq = e :: q →
      exec .eventPop s =
        .next { s with evq := q, popped := s.popped ++ [e], resp := some ⟨.ok, .event e⟩ })

/-- R225: every host command answers, and one that answers an error status changes no other state. -/
def Obligations.ErrorStatusChangesNothing : Prop :=
  ∀ (i : Instr) (s : State), i.isHost = true →
    ∃ (t : State) (r : Response), exec i s = .next t ∧ t.resp = some r ∧
      (r.status ≠ .ok → t = { s with resp := some r })

/-- The frame of the host commands, R180 to R188 and R191. None of them pops a queue, reads RX or writes TX; only
CONNECT changes `state` and the buffer, only CONNECT and DISCONNECT `cancel_req`, only ENQ_READ `rdq`, only
ENQ_WRITE `wrq`, only EVENT_POP `evq`. -/
def Obligations.HostCommandFrame : Prop :=
  ∀ (i : Instr) (s t : State), i.isHost = true → exec i s = .next t →
    t.cfg = s.cfg ∧ t.rxPort = s.rxPort ∧ t.txAnswers = s.txAnswers ∧ t.sched = s.sched ∧
    t.txTrace = s.txTrace ∧
    (i ≠ .connect → t.state = s.state ∧ t.buf = s.buf ∧ t.k = s.k ∧ t.pend = s.pend ∧ t.ecause = s.ecause) ∧
    (i ≠ .connect → i ≠ .disconnect → t.cancelReq = s.cancelReq) ∧
    ((∀ f, i ≠ .enqRead f) → t.rdq = s.rdq) ∧
    ((∀ f, i ≠ .enqWrite f) → t.wrq = s.wrq) ∧
    (i ≠ .eventPop → t.evq = s.evq ∧ t.popped = s.popped)

/-! ## Inbound frames and outbound words -/

/-- R147, R150 and R151 when DEV answers TxOk: in OK_MESSAGE a token goes to its token state, with no ACK and no event;
there exactly one TX write answers it, the popped head frame or ACK, and ARB is back in WAIT_START. A read token
never takes from `wrq`, and a write token never from `rdq`. -/
def Obligations.TokensServeOneFrameOrAck : Prop :=
  ∀ (s : State) (f : InFrame),
    (s.state = .okMessage →
      exec (.rxReadToken f) s = .next { s with state := .readTokenReceived } ∧
      exec (.rxWriteToken f) s = .next { s with state := .writeTokenReceived }) ∧
    (s.nextTxFails = false →
      (s.state = .readTokenReceived → exec (.rxReadToken f) s =
        .next { s with state := .waitStart, buf := [], k := none, pend := none, ecause := none,
                       rdq := s.rdq.tail, txTrace := s.txTrace ++ s.rdq.headD [0x06],
                       txAnswers := s.txAnswers.tail }) ∧
      (s.state = .writeTokenReceived → exec (.rxWriteToken f) s =
        .next { s with state := .waitStart, buf := [], k := none, pend := none, ecause := none,
                       wrq := s.wrq.tail, txTrace := s.txTrace ++ s.wrq.headD [0x06],
                       txAnswers := s.txAnswers.tail }))

/-- R148 when DEV answers TxOk: a data frame of each of the five kinds is ACKed, decoded into `pend`, and goes to
DELIVER; everything else stays. -/
def Obligations.DataFramesAreAckedAndDecoded : Prop :=
  ∀ (s : State) (f : InFrame), s.state = .okMessage → s.nextTxFails = false →
    let after : DataKind → State := fun d =>
      { s with state := .deliver, pend := some (decodeFrame s.cfg d f), txTrace := s.txTrace ++ [0x06],
               txAnswers := s.txAnswers.tail }
    exec (.rxBroadcast f) s = .next (after .broadcast) ∧
    exec (.rxReadResp f) s = .next (after .readResp) ∧
    exec (.rxWriteResp f) s = .next (after .writeResp) ∧
    exec (.rxAuxBroadcast f) s = .next (after .auxBroadcast) ∧
    exec (.rxOther f) s = .next (after .other)

/-- R152 with R54: on TxFail with `n` bytes sent the trace holds that much of the sequence, a popped frame is not
put back, no event of the frame is made, and TRANSPORT_ERROR holds cause TX. -/
def Obligations.TxFailureEntersTransportError : Prop :=
  ∀ (s : State) (f : InFrame) (d : DataKind) (n : Nat) (rest : List TxAnswer), s.txAnswers = .fail n :: rest →
    (s.state = .okMessage → exec (rxInstr d.kind f) s = .next (s.sentFail [0x06] n)) ∧
    (s.state = .crcFailure → exec .txNak s = .next (s.sentFail [0x15] n)) ∧
    (s.state = .readTokenReceived →
      exec (.rxReadToken f) s = .next { s.sentFail (s.rdq.headD [0x06]) n with rdq := s.rdq.tail }) ∧
    (s.state = .writeTokenReceived →
      exec (.rxWriteToken f) s = .next { s.sentFail (s.wrq.headD [0x06]) n with wrq := s.wrq.tail })

/-- R146 when DEV answers TxOk: NAK goes out and ARB is back in WAIT_START, with no event. -/
def Obligations.NakAnswersAChecksumFailure : Prop :=
  ∀ s : State, s.state = .crcFailure → s.nextTxFails = false →
    exec .txNak s =
      .next { s with state := .waitStart, buf := [], k := none, pend := none, ecause := none,
                     txTrace := s.txTrace ++ [0x15], txAnswers := s.txAnswers.tail }

/-- R148, R150 and R151 when DEV answers TxOk: ACK goes out in OK_MESSAGE for a data frame, whose event is then
pending, and in a token state whose queue is empty (or holds the one byte ACK at its head, R183). -/
def Obligations.AckAnswersDataAndIdleTokens : Prop :=
  ∀ (s : State) (f : InFrame) (d : DataKind), s.nextTxFails = false →
    (s.state = .okMessage → s.k = some d.kind → InFrame.parse s.buf = some f →
      exec .txAck s =
        .next { s with state := .deliver, pend := some (decodeFrame s.cfg d f), txTrace := s.txTrace ++ [0x06],
                       txAnswers := s.txAnswers.tail }) ∧
    (s.state = .readTokenReceived → s.rdq.headD [0x06] = [0x06] →
      exec .txAck s =
        .next { s with state := .waitStart, buf := [], k := none, pend := none, ecause := none,
                       rdq := s.rdq.tail, txTrace := s.txTrace ++ [0x06], txAnswers := s.txAnswers.tail }) ∧
    (s.state = .writeTokenReceived → s.wrq.headD [0x06] = [0x06] →
      exec .txAck s =
        .next { s with state := .waitStart, buf := [], k := none, pend := none, ecause := none,
                       wrq := s.wrq.tail, txTrace := s.txTrace ++ [0x06], txAnswers := s.txAnswers.tail })

/-- R111, R112, R150 and R151 when DEV answers TxOk: a read or a write request at the head of the queue being served,
whichever queue that is (R183: contents are not checked), goes out verbatim, once, and leaves the queue. -/
def Obligations.QueuedRequestsGoOutVerbatim : Prop :=
  ∀ (s : State) (a : RegAddr) (v : Value) (q : List Bytes) (i : Instr) (w : Bytes), s.nextTxFails = false →
    (i = .txReadReq a ∧ w = buildReadRequest s.cfg a) ∨
      (i = .txWriteReq a v ∧ w = buildWriteRequest s.cfg a v 4 true) →
    (s.state = .readTokenReceived → s.rdq = w :: q →
      exec i s =
        .next { s with state := .waitStart, buf := [], k := none, pend := none, ecause := none, rdq := q,
                       txTrace := s.txTrace ++ w, txAnswers := s.txAnswers.tail }) ∧
    (s.state = .writeTokenReceived → s.wrq = w :: q →
      exec i s =
        .next { s with state := .waitStart, buf := [], k := none, pend := none, ecause := none, wrq := q,
                       txTrace := s.txTrace ++ w, txAnswers := s.txAnswers.tail })

/-- The step of an outbound word is the step of the frame it answers (log entry 8), whatever DEV answers: in a token
state when the word is the token's answer (R150, R151), and for ACK in OK_MESSAGE with a data frame (R148). -/
def Obligations.OutboundWordsAreTheStepsTheyAnswer : Prop :=
  ∀ (s : State) (i : Instr) (w : Bytes) (f : InFrame), encode s.cfg i = .tx w →
    (s.state = .readTokenReceived → s.rdq.headD [0x06] = w → exec i s = exec (.rxReadToken f) s) ∧
    (s.state = .writeTokenReceived → s.wrq.headD [0x06] = w → exec i s = exec (.rxWriteToken f) s) ∧
    (∀ d : DataKind, s.state = .okMessage → w = [0x06] → s.k = some d.kind → InFrame.parse s.buf = some f →
      exec i s = exec (rxInstr d.kind f) s)

/-- R140 and R155 as the model codes them (log entry 8): a frame or a TX word asked for where ARB has no such step
stops with `notEnabled`. -/
def Obligations.NothingIsSentUnprompted : Prop :=
  ∀ (s : State) (f : InFrame),
    (s.state ≠ .okMessage → ∀ d : DataKind, exec (rxInstr d.kind f) s = .fault .notEnabled) ∧
    (s.state ≠ .okMessage → s.state ≠ .readTokenReceived → exec (.rxReadToken f) s = .fault .notEnabled) ∧
    (s.state ≠ .okMessage → s.state ≠ .writeTokenReceived → exec (.rxWriteToken f) s = .fault .notEnabled) ∧
    (∀ (i : Instr) (w : Bytes), encode s.cfg i = .tx w → s.txWord ≠ some w → exec i s = .fault .notEnabled)

/-- The frame of the inbound frames and outbound words, R146 to R152: the configuration, `cancel_req`, `evq`, the
RX port, the schedule and the observations of HOST and LSN stay; `rdq` stays or loses its head, and only in
READ_TOKEN_RECEIVED; `wrq` likewise; the TX trace grows by at most one word. -/
def Obligations.FrameAndWordSteps : Prop :=
  ∀ (i : Instr) (s t : State), i.isHost = false → exec i s = .next t →
    t.cfg = s.cfg ∧ t.cancelReq = s.cancelReq ∧ t.evq = s.evq ∧ t.rxPort = s.rxPort ∧ t.sched = s.sched ∧
    t.popped = s.popped ∧ t.resp = s.resp ∧
    (t.rdq = s.rdq ∨ (s.state = .readTokenReceived ∧ t.rdq = s.rdq.tail)) ∧
    (t.wrq = s.wrq ∨ (s.state = .writeTokenReceived ∧ t.wrq = s.wrq.tail)) ∧
    (t.txTrace = s.txTrace ∨ ∃ w p, (w = [0x06] ∨ w = [0x15] ∨ w ∈ s.rdq.head? ∨ w ∈ s.wrq.head?) ∧
      p <+: w ∧ t.txTrace = s.txTrace ++ p)

/-! ## One step -/

/-- A host move runs the command its word decodes to, in the state with the move taken off the schedule. -/
def Obligations.StepRunsTheHostCommand : Prop :=
  ∀ (s : State) (h : Hcw) (frame : Bytes) (rest : List Move) (i : Instr),
    s.cfg.wf = true → s.sched = .host h frame :: rest → decode s.cfg (.host h frame) = .ok i →
    step s = exec i { s with sched := rest }

/-- ARB's move runs the instruction at hand: in OK_MESSAGE the one that the frame in `buf` decodes to; in CRC_FAILURE
NAK; in a token state the one that the word about to be written decodes to, which is the token's own step, and the
token's own step too where a queued frame is no encoding. R140 to R151 give these steps; which row of the opcode table
names a step, so that a token state's step is both the outbound word's and the token's, is the model's choice (log
entry 8, DESIGN CHOICE). -/
def Obligations.StepRunsArbsInstruction : Prop :=
  ∀ (s : State) (rest : List Move) (f : InFrame), s.inv = true → s.sched = .arb :: rest →
    (s.state = .okMessage → ∃ i, decode s.cfg (.rx s.buf) = .ok i ∧ step s = exec i { s with sched := rest }) ∧
    (s.state = .crcFailure → step s = exec .txNak { s with sched := rest }) ∧
    (s.state = .readTokenReceived →
      step s = exec (.rxReadToken f) { s with sched := rest } ∧
      ∀ i, decode s.cfg (.tx (s.rdq.headD [0x06])) = .ok i → step s = exec i { s with sched := rest }) ∧
    (s.state = .writeTokenReceived →
      step s = exec (.rxWriteToken f) { s with sched := rest } ∧
      ∀ i, decode s.cfg (.tx (s.wrq.headD [0x06])) = .ok i → step s = exec i { s with sched := rest })

/-- R142 with R227 (1): in an input state a set `cancel_req` wins over whatever the port holds. -/
def Obligations.CancelWinsInAnInputState : Prop :=
  ∀ (s : State) (rest : List Move), s.cfg.wf = true → s.sched = .arb :: rest → s.cancelReq = true →
    s.state = .waitStart ∨ s.state = .waitData →
    step s = .next { s with sched := rest, state := .stopped, buf := [], k := none, pend := none,
                            ecause := none, cancelReq := false }

/-- R143: WAIT_START takes the byte at the port; 0x5C opens a frame, every other byte is discarded. -/
def Obligations.WaitStartHuntsForTheMarker : Prop :=
  ∀ (s : State) (rest : List Move) (b : Byte) (port : List RxInput),
    s.cfg.wf = true → s.sched = .arb :: rest → s.cancelReq = false → s.state = .waitStart →
    s.rxPort = .byte b :: port →
    (b = 0x5C → step s = .next { s with sched := rest, rxPort := port, state := .waitData, buf := [0x5C] }) ∧
    (b ≠ 0x5C → step s = .next { s with sched := rest, rxPort := port })

/-- R144: WAIT_DATA appends the byte and goes where `classify` says; Invalid drops the buffer. -/
def Obligations.WaitDataAppendsAndClassifies : Prop :=
  ∀ (s : State) (rest : List Move) (b : Byte) (port : List RxInput),
    s.inv = true → s.sched = .arb :: rest → s.cancelReq = false → s.state = .waitData →
    s.rxPort = .byte b :: port →
    (classify s.cfg (s.buf ++ [b]) = .incomplete →
      step s = .next { s with sched := rest, rxPort := port, buf := s.buf ++ [b] }) ∧
    (classify s.cfg (s.buf ++ [b]) = .invalid →
      step s = .next { s with sched := rest, rxPort := port, buf := [], state := .waitStart }) ∧
    (classify s.cfg (s.buf ++ [b]) = .checksumFailure →
      step s = .next { s with sched := rest, rxPort := port, buf := s.buf ++ [b], state := .crcFailure }) ∧
    (∀ kd, classify s.cfg (s.buf ++ [b]) = .valid kd →
      step s = .next { s with sched := rest, rxPort := port, buf := s.buf ++ [b], k := some kd,
                              state := .okMessage })

/-- R145: an RX failure in an input state drops the frame and enters TRANSPORT_ERROR with cause RX. -/
def Obligations.RxFailureEntersTransportError : Prop :=
  ∀ (s : State) (rest : List Move) (port : List RxInput),
    s.cfg.wf = true → s.sched = .arb :: rest → s.cancelReq = false →
    s.state = .waitStart ∨ s.state = .waitData → s.rxPort = .fail :: port →
    step s = .next { s with sched := rest, rxPort := port, state := .transportError, buf := [], k := none,
                            pend := some (.transportError .rx), ecause := some .rx }

/-- R149: DELIVER moves `pend` into `evq` and goes to WAIT_START; while `evq` is full it holds. -/
def Obligations.DeliverWaitsForRoom : Prop :=
  ∀ (s : State) (rest : List Move) (e : Event),
    s.cfg.wf = true → s.sched = .arb :: rest → s.state = .deliver → s.pend = some e →
    (s.cfg.evqCap = some s.evq.length → step s = .next { s with sched := rest }) ∧
    ((s.cfg.evqCap = none ∨ ∃ m, s.cfg.evqCap = some m ∧ s.evq.length < m) →
      step s = .next { s with sched := rest, evq := s.evq ++ [e], pend := none, state := .waitStart, buf := [],
                              k := none, ecause := none })

/-- R153: TRANSPORT_ERROR reports its event once, absorbs a pending cancellation, and stops the block; while `evq` is
full it holds. -/
def Obligations.TransportErrorIsReportedOnce : Prop :=
  ∀ (s : State) (rest : List Move) (e : Event),
    s.cfg.wf = true → s.sched = .arb :: rest → s.state = .transportError → s.pend = some e →
    (s.cfg.evqCap = some s.evq.length → step s = .next { s with sched := rest }) ∧
    ((s.cfg.evqCap = none ∨ ∃ m, s.cfg.evqCap = some m ∧ s.evq.length < m) →
      step s = .next { s with sched := rest, evq := s.evq ++ [e], pend := none, state := .stopped, buf := [],
                              k := none, ecause := none, cancelReq := false })

/-- R140 and R141: ARB's move changes nothing but the schedule exactly when ARB has no enabled step, which in
STOPPED is always, in an input state means neither a cancellation nor an RX input, and in DELIVER and
TRANSPORT_ERROR means a full `evq`. That a scheduled ARB without a step holds is the model's form (log entry 2). -/
def Obligations.ArbMovesExactlyWhenEnabled : Prop :=
  ∀ (s : State) (rest : List Move), s.inv = true → s.sched = .arb :: rest →
    (step s = .next { s with sched := rest } ↔
      s.state = .stopped ∨
      ((s.state = .waitStart ∨ s.state = .waitData) ∧ s.cancelReq = false ∧ s.rxPort = []) ∨
      ((s.state = .deliver ∨ s.state = .transportError) ∧ s.cfg.evqCap = some s.evq.length))

/-! ## The whole machine -/

/-- R8: the model refuses a configuration that breaks any of the checks (a) to (f). -/
def Obligations.BadConfigurationIsRefused : Prop :=
  ∀ s : State,
    (¬ s.cfg.inboundCmds.Nodup ∨ s.cfg.auxAddr = s.cfg.primaryAddr ∨
      (∃ fd ∈ s.cfg.auxFields, fd.w ≠ 1 ∧ fd.w ≠ 2 ∧ fd.w ≠ 4) ∨ s.cfg.bufCap < 6 ∨ s.cfg.frameMax < 10 ∨
      s.cfg.evqCap = some 0) →
    step s = .refused .badConfig

/-- R260 with R34: the state right after reset, and the STATUS word there, under every configuration. -/
def Obligations.ResetState : Prop :=
  ∀ c : Config,
    (State.resetWith c).state = .stopped ∧ (State.resetWith c).len = 0 ∧ (State.resetWith c).buf = [] ∧
    (State.resetWith c).k = none ∧ (State.resetWith c).pend = none ∧ (State.resetWith c).ecause = none ∧
    (State.resetWith c).cancelReq = false ∧ (State.resetWith c).rdq = [] ∧ (State.resetWith c).wrq = [] ∧
    (State.resetWith c).evq = [] ∧ (State.resetWith c).txTrace = [] ∧
    (State.resetWith c).statusWord = 0x000000C8

/-- The invariant holds right after reset under every well-formed configuration. -/
def Obligations.InvariantHoldsAtReset : Prop :=
  ∀ c : Config, c.wf = true → (State.resetWith c).inv = true

/-- The headline: from every state that meets the invariant, whichever agent moves and whatever DEV does, the step
answers a next state that meets it. So no rule ever reads storage that holds no value (R35), the buffer never
overflows (R144), and queues and events stay within their capacities (R28, R29). -/
def Obligations.EveryStepKeepsTheInvariant : Prop :=
  ∀ s : State, s.inv = true → ∃ t, step s = .next t ∧ t.inv = true

/-- The same over runs of every length: the machine never stops. -/
def Obligations.NoRunEverStops : Prop :=
  ∀ (n : Nat) (s : State), s.inv = true → ∃ t : State, Sys2Proof.core.run n s = .next t ∧ t.inv = true

/-- R157: ARB's every enabled step is a row of the transition table. The table does not write `k`, `pend` and `ecause`
where they hold no value; that the rows into WAIT_START, STOPPED and TRANSPORT_ERROR clear them is log entry 7
(DEDUCED from R24 to R26). -/
def Obligations.ArbStepsFollowTheTransitionTable : Prop :=
  ∀ (s : State) (rest : List Move) (t : State), s.inv = true → s.sched = .arb :: rest →
    { s with sched := rest }.arbEnabled = true → step s = .next t → Transition { s with sched := rest } t

/-- R20: the configuration is fixed for the life of a run. -/
def Obligations.ConfigurationNeverChanges : Prop :=
  ∀ (n : Nat) (s t : State), Sys2Proof.core.run n s = .next t → t.cfg = s.cfg

/-- R155: the TX port is written only by ARB's own move, in CRC_FAILURE (NAK), in OK_MESSAGE with a data frame
(ACK), and in a token state (a queued frame or ACK); what goes out is that word, or a prefix of it when DEV
answers TxFail. -/
def Obligations.TransmissionDiscipline : Prop :=
  ∀ s t : State, step s = .next t →
    t.txTrace = s.txTrace ∨
    ((∃ rest, s.sched = .arb :: rest) ∧ ∃ w p,
      ((s.state = .crcFailure ∧ w = [0x15]) ∨
       (s.state = .okMessage ∧ w = [0x06] ∧ s.k ≠ some .readToken ∧ s.k ≠ some .writeToken) ∨
       (s.state = .readTokenReceived ∧ w = s.rdq.headD [0x06]) ∨
       (s.state = .writeTokenReceived ∧ w = s.wrq.headD [0x06])) ∧
      p <+: w ∧ t.txTrace = s.txTrace ++ p ∧ (s.nextTxFails = false → p = w))

/-- R28, R58, R189, R190: a queue changes only at its two ports. A host's enqueue appends one frame at the tail; ARB
in the matching token state removes the head, and writes it to TX: all of it, or a prefix of it where DEV answers TxFail (R54). -/
def Obligations.QueuesAreFifoWithOneConsumer : Prop :=
  ∀ s t : State, step s = .next t →
    (t.rdq = s.rdq ∨
      (∃ h f rest, s.sched = .host h f :: rest ∧ decodeHost h f = .enqRead f ∧ t.rdq = s.rdq ++ [f]) ∨
      (∃ rest f q, s.sched = .arb :: rest ∧ s.state = .readTokenReceived ∧ s.rdq = f :: q ∧ t.rdq = q ∧
        ∃ p, p <+: f ∧ t.txTrace = s.txTrace ++ p ∧ (s.nextTxFails = false → p = f))) ∧
    (t.wrq = s.wrq ∨
      (∃ h f rest, s.sched = .host h f :: rest ∧ decodeHost h f = .enqWrite f ∧ t.wrq = s.wrq ++ [f]) ∨
      (∃ rest f q, s.sched = .arb :: rest ∧ s.state = .writeTokenReceived ∧ s.wrq = f :: q ∧ t.wrq = q ∧
        ∃ p, p <+: f ∧ t.txTrace = s.txTrace ++ p ∧ (s.nextTxFails = false → p = f)))

/-- R59, R192, R193 with R149 and R153: LSN's record of popped events only grows, and the popped events followed by
those waiting are unchanged by every step but ARB's step out of DELIVER or TRANSPORT_ERROR, which appends the pending
event at the end and clears `pend`. Every other step leaves ARB in the state, and its event pending. So no event is
dropped, duplicated or reordered. -/
def Obligations.EventsAreDeliveredOnceInOrder : Prop :=
  ∀ s t : State, step s = .next t →
    s.popped <+: t.popped ∧
    ((t.popped ++ t.evq = s.popped ++ s.evq ∧
        (s.state = .deliver ∨ s.state = .transportError → t.state = s.state ∧ t.pend = s.pend)) ∨
      ∃ rest e, s.sched = .arb :: rest ∧ s.pend = some e ∧
        ((s.state = .deliver ∧ t.state = .waitStart) ∨ (s.state = .transportError ∧ t.state = .stopped)) ∧
        t.popped ++ t.evq = s.popped ++ s.evq ++ [e] ∧ t.pend = none)

/-- R141, R181: only CONNECT leaves STOPPED. -/
def Obligations.OnlyConnectLeavesStopped : Prop :=
  ∀ s t : State, step s = .next t → s.state = .stopped → t.state ≠ .stopped →
    ∃ h f rest, s.sched = .host h f :: rest ∧ decodeHost h f = .connect

/-- R55: an RX input is consumed only by ARB's own move, in an input state without a pending cancellation, one a step.
Besides that the port changes only by DEV's move: an input it offers waits behind the others, and it may withdraw all
that waits (log entry 3, DESIGN CHOICE). -/
def Obligations.RxIsConsumedOnlyInInputStates : Prop :=
  ∀ s t : State, step s = .next t →
    t.rxPort = s.rxPort ∨
    (∃ x rest, s.sched = .dev (.offer x) :: rest ∧ t.rxPort = s.rxPort ++ [x]) ∨
    (∃ rest, s.sched = .dev .withdraw :: rest ∧ t.rxPort = []) ∨
    ((∃ rest, s.sched = .arb :: rest) ∧ (s.state = .waitStart ∨ s.state = .waitData) ∧ s.cancelReq = false ∧
      ∃ x, s.rxPort = x :: t.rxPort)

/-- R221, R222, R223, R224 with R228: what ARB's step does when it detects an error of each class. -/
def Obligations.EachErrorClassIsHandledAsStated : Prop :=
  ∀ (s : State) (rest : List Move) (t : State), s.inv = true → s.sched = .arb :: rest → step s = .next t →
    (s.errorDetected = some .framingNoise →
      t.state = .waitStart ∧ t.buf = [] ∧ t.txTrace = s.txTrace ∧ t.evq = s.evq ∧ t.pend = none) ∧
    (s.errorDetected = some .checksumFailure →
      t.state = .crcFailure ∧ t.txTrace = s.txTrace ∧ t.evq = s.evq ∧ t.pend = none) ∧
    (s.errorDetected = some .decodeRange →
      ∃ kd, t.state = .deliver ∧ t.pend = some (.decodeError kd) ∧ s.k = some kd ∧
        t.txTrace = s.txTrace ++ [0x06]) ∧
    (s.errorDetected = some .transport →
      ∃ cause, t.state = .transportError ∧ t.ecause = some cause ∧ t.pend = some (.transportError cause) ∧
        t.buf = [] ∧ t.evq = s.evq)

/-- R273: ARB's transient steps are always enabled, so with room in `evq` a chain of them ends in WAIT_START or
STOPPED within four moves of ARB alone. -/
def Obligations.TransientChainsFinish : Prop :=
  ∀ s : State, s.inv = true → s.evqRoom = true → s.sched = [.arb, .arb, .arb, .arb] →
    s.state ≠ .waitStart → s.state ≠ .waitData → s.state ≠ .stopped →
    ∃ n t, n ≤ 4 ∧ Sys2Proof.core.run n s = .next t ∧ (t.state = .waitStart ∨ t.state = .stopped)
end

