-- ==== Sys2Proof/Laws/Codec.lean ====
section
/-! SUPPORT. The codec's spec lemmas: byte fields, the parse of a frame, the checksum, and classification. -/

namespace Sys2Proof

/-! ## Byte fields -/

theorem append_toNat {n : Nat} (hi : BitVec n) (lo : Byte) :
    (hi ++ lo).toNat = lo.toNat + 256 * hi.toNat := by
  rw [BitVec.toNat_append, ← Nat.shiftLeft_add_eq_or_of_lt lo.isLt, Nat.shiftLeft_eq]
  omega

theorem le16_toNat (b0 b1 : Byte) : (le16 b0 b1).toNat = b0.toNat + 256 * b1.toNat :=
  append_toNat b1 b0

theorem le32_toNat (b0 b1 b2 b3 : Byte) : (le32 b0 b1 b2 b3).toNat =
    b0.toNat + 256 * b1.toNat + 65536 * b2.toNat + 16777216 * b3.toNat := by
  have h : (le32 b0 b1 b2 b3).toNat = (b3 ++ b2 ++ b1 ++ b0).toNat := rfl
  rw [h, append_toNat, append_toNat, append_toNat]
  omega

theorem le16_split (v : BitVec 16) : le16 (v.setWidth 8) ((v >>> 8).setWidth 8) = v := by
  apply BitVec.eq_of_toNat_eq
  have := v.isLt
  rw [le16_toNat]
  simp [Nat.shiftRight_eq_div_pow]
  omega

theorem le32_split (v : BitVec 32) :
    le32 (v.setWidth 8) ((v >>> 8).setWidth 8) ((v >>> 8 >>> 8).setWidth 8) ((v >>> 8 >>> 8 >>> 8).setWidth 8)
      = v := by
  apply BitVec.eq_of_toNat_eq
  have := v.isLt
  rw [le32_toNat]
  simp [Nat.shiftRight_eq_div_pow]
  omega

theorem le16_lo (b0 b1 : Byte) : (le16 b0 b1).setWidth 8 = b0 := by
  apply BitVec.eq_of_toNat_eq
  have := b0.isLt
  simp [le16_toNat]
  omega

theorem le16_hi (b0 b1 : Byte) : (le16 b0 b1 >>> 8).setWidth 8 = b1 := by
  apply BitVec.eq_of_toNat_eq
  have := b0.isLt
  have := b1.isLt
  simp [le16_toNat, Nat.shiftRight_eq_div_pow]
  omega

theorem bytesLe_le16 (b0 b1 : Byte) : bytesLe (le16 b0 b1) 2 = [b0, b1] := by
  simp [bytesLe, le16_lo, le16_hi]

theorem bytesLe_le32 (b0 b1 b2 b3 : Byte) : bytesLe (le32 b0 b1 b2 b3) 4 = [b0, b1, b2, b3] := by
  have h0 := b0.isLt
  have h1 := b1.isLt
  have h2 := b2.isLt
  have h3 := b3.isLt
  simp only [bytesLe, List.cons.injEq, and_true]
  refine ⟨?_, ?_, ?_, ?_⟩ <;> apply BitVec.eq_of_toNat_eq <;>
    simp [le32_toNat, Nat.shiftRight_eq_div_pow] <;> omega

theorem bytesLe_two {w : Nat} (v : BitVec w) : bytesLe v 2 = [v.setWidth 8, (v >>> 8).setWidth 8] := rfl

theorem bytesLe_length {w : Nat} (v : BitVec w) (n : Nat) : (bytesLe v n).length = n := by
  induction n generalizing v with
  | zero => rfl
  | succ n ih => simp [bytesLe, ih]

theorem lenByte_toNat {f : InFrame} (h : f.payload.length < 256) : f.lenByte.toNat = f.payload.length := by
  simp [InFrame.lenByte, BitVec.toNat_ofNat, Nat.mod_eq_of_lt h]

/-! ## Frames -/

theorem bytes_length (f : InFrame) : f.bytes.length = f.payload.length + 6 := by
  simp [InFrame.bytes]

theorem parse_bytes {f : InFrame} (h : f.payload.length < 256) : InFrame.parse f.bytes = some f := by
  simp [InFrame.bytes, InFrame.parse, lenByte_toNat h]

/-- The parse inverts `bytes`: what parses is the bytes of its frame, with `N` the payload's length. -/
theorem bytes_of_parse {b : Bytes} {f : InFrame} (h : InFrame.parse b = some f) :
    f.bytes = b ∧ f.payload.length < 256 := by
  unfold InFrame.parse at h
  split at h
  · rename_i s r a c n rest
    split at h
    · rename_i hsr
      split at h
      · rename_i cs hd
        have hlen : rest.length = n.toNat + 1 := by
          have := congrArg List.length hd
          simp at this
          omega
        have hn : n.toNat < 256 := n.isLt
        obtain ⟨rfl, rfl⟩ := hsr
        cases h
        have ht : (rest.take n.toNat).length = n.toNat := by simp [hlen]
        refine ⟨?_, by simpa [hlen] using hn⟩
        have : BitVec.ofNat 8 (rest.take n.toNat).length = n := by rw [ht]; simp
        simp only [InFrame.bytes, InFrame.lenByte, this]
        rw [← hd, List.take_append_drop]
      · cases h
    · cases h
  · cases h

/-- What parses is exactly a start marker, a reserved byte, the header, `N` payload bytes and a checksum. -/
theorem parse_eq_some_iff {b : Bytes} {f : InFrame} :
    InFrame.parse b = some f ↔ f.bytes = b ∧ f.payload.length < 256 :=
  ⟨bytes_of_parse, fun ⟨h, hl⟩ => h ▸ parse_bytes hl⟩

/-! ## Classification -/

/-- `classify` on a sequence that reaches offset 4 with the marker and the reserved byte right. -/
theorem classify_header (c : Config) (a cmd n : Byte) (rest : Bytes) :
    classify c (startIn :: reservedByte :: a :: cmd :: n :: rest) =
      if c.bufCap < n.toNat + 6 then .invalid
      else if rest.length < n.toNat + 1 then .incomplete
      else if verifyChecksum (startIn :: reservedByte :: a :: cmd :: n :: rest.take (n.toNat + 1)) n.toNat
        then .valid (kindOf c a cmd) else .checksumFailure := by
  have h1 : (startIn :: reservedByte :: a :: cmd :: n :: rest).take (n.toNat + 6) =
      startIn :: reservedByte :: a :: cmd :: n :: rest.take (n.toNat + 1) := by
    simp [List.take_succ_cons]
  simp only [classify, ne_eq, not_true_eq_false, if_false, h1, List.length_cons]
  by_cases hc : c.bufCap < n.toNat + 6
  · simp [hc]
  · simp only [hc, if_false]
    by_cases hl : rest.length < n.toNat + 1
    · rw [if_pos hl, if_pos (by omega)]
    · rw [if_neg hl, if_neg (by omega)]

/-- A well-formed frame is Valid of its kind, R103. -/
theorem classify_wellFormed {c : Config} {kd : FrameKind} {f : InFrame} (h : f.wellFormed c kd = true) :
    classify c f.bytes = .valid kd := by
  simp only [InFrame.wellFormed, Bool.and_eq_true, decide_eq_true_eq] at h
  obtain ⟨⟨⟨h1, h2⟩, h3⟩, h4⟩ := h
  have hn := lenByte_toNat h1
  unfold InFrame.bytes
  rw [classify_header, hn, if_neg (by omega), if_neg (by simp)]
  have ht : (f.payload ++ [f.cs]).take (f.payload.length + 1) = f.payload ++ [f.cs] := by
    apply List.take_of_length_le; simp
  rw [ht]
  unfold InFrame.bytes at h3
  rw [if_pos h3, h4]

/-- What is Valid and parses is a well-formed frame of that kind. -/
theorem wellFormed_of_classify {c : Config} {kd : FrameKind} {f : InFrame} (hl : f.payload.length < 256)
    (h : classify c f.bytes = .valid kd) : f.wellFormed c kd = true := by
  have hn := lenByte_toNat hl
  have ht : (f.payload ++ [f.cs]).take (f.payload.length + 1) = f.payload ++ [f.cs] := by
    apply List.take_of_length_le; simp
  have h' := h
  unfold InFrame.bytes at h'
  rw [classify_header, hn, ht] at h'
  simp only [InFrame.wellFormed, Bool.and_eq_true, decide_eq_true_eq]
  split at h'
  · cases h'
  · split at h'
    · cases h'
    · split at h'
      · rename_i hv
        injection h' with hk
        refine ⟨⟨⟨hl, by omega⟩, ?_⟩, hk⟩
        unfold InFrame.bytes
        exact hv
      · cases h'

/-- What `classify` says of a sequence it does not call Incomplete or Invalid: the marker, the reserved byte and a
header stand, and `N + 6` bytes have arrived and fit. -/
theorem classify_complete {c : Config} {b : Bytes}
    (h : classify c b = .checksumFailure ∨ ∃ kd, classify c b = .valid kd) :
    ∃ a cmd n rest, b = startIn :: reservedByte :: a :: cmd :: n :: rest ∧
      n.toNat + 6 ≤ c.bufCap ∧ n.toNat + 1 ≤ rest.length := by
  match b with
  | [] => simp [classify] at h
  | [b0] => by_cases h0 : b0 = startIn <;> simp [classify, h0] at h
  | b0 :: b1 :: t =>
    by_cases h0 : b0 = startIn
    · by_cases h1 : b1 = reservedByte
      · subst h0 h1
        match t with
        | [] => simp [classify] at h
        | [_] => simp [classify] at h
        | [_, _] => simp [classify] at h
        | a :: cmd :: n :: rest =>
          rw [classify_header] at h
          by_cases hc : c.bufCap < n.toNat + 6
          · simp [hc] at h
          · by_cases hr : rest.length < n.toNat + 1
            · simp [hc, hr] at h
            · exact ⟨a, cmd, n, rest, rfl, by omega, by omega⟩
      · simp [classify, h0, h1] at h
    · simp [classify, h0] at h

/-- An Incomplete buffer is shorter than the buffer's capacity, R144: the append is in range. -/
theorem incomplete_length {c : Config} (hc : 6 ≤ c.bufCap) {b : Bytes} (h : classify c b = .incomplete) :
    b.length < c.bufCap ∧
      (∀ s r a cmd n rest, b = s :: r :: a :: cmd :: n :: rest → rest.length < n.toNat + 1) := by
  match b with
  | [] => exact ⟨by simp; omega, by simp⟩
  | [_] => exact ⟨by simp; omega, by simp⟩
  | b0 :: b1 :: t =>
    by_cases h0 : b0 = startIn
    · by_cases h1 : b1 = reservedByte
      · subst h0 h1
        match t with
        | [] => exact ⟨by simp; omega, by simp⟩
        | [_] => exact ⟨by simp; omega, by simp⟩
        | [_, _] => exact ⟨by simp; omega, by simp⟩
        | a :: cmd :: n :: rest =>
          rw [classify_header] at h
          by_cases hb : c.bufCap < n.toNat + 6
          · simp [hb] at h
          · by_cases hr : rest.length < n.toNat + 1
            · refine ⟨by simp; omega, ?_⟩
              intro s r a' cmd' n' rest' he
              simp only [List.cons.injEq] at he
              obtain ⟨-, -, -, -, rfl, rfl⟩ := he
              exact hr
            · simp only [hb, hr, if_false] at h
              split at h <;> cases h
      · simp [classify, h0, h1] at h
    · simp [classify, h0] at h

/-- One byte after an Incomplete buffer, a complete verdict falls on exactly `N + 6` bytes, which parse. -/
theorem parse_of_complete {c : Config} (hc : 6 ≤ c.bufCap) {b : Bytes} {x : Byte}
    (hi : classify c b = .incomplete)
    (h : classify c (b ++ [x]) = .checksumFailure ∨ ∃ kd, classify c (b ++ [x]) = .valid kd) :
    (InFrame.parse (b ++ [x])).isSome = true ∧ (b ++ [x]).length ≤ c.bufCap := by
  obtain ⟨a, cmd, n, rest, he, hcap, hlen⟩ := classify_complete h
  have hshort := (incomplete_length hc hi).1
  have hrest : rest.length = n.toNat + 1 := by
    by_contra hne
    -- otherwise `b` itself already reaches offset 5 + N
    have hb : b = startIn :: reservedByte :: a :: cmd :: n :: rest.dropLast := by
      have := congrArg List.dropLast he
      have hr : rest ≠ [] := by intro h0; simp [h0] at hlen
      simpa [List.dropLast_cons_of_ne_nil, hr] using this
    have := (incomplete_length hc hi).2 _ _ _ _ _ _ hb
    simp at this
    omega
  constructor
  · rw [he]
    have hd : (rest.drop n.toNat).length = 1 := by simp [hrest]
    obtain ⟨cs, hcs⟩ := List.length_eq_one_iff.mp hd
    simp [InFrame.parse, hcs]
  · simp; omega

end Sys2Proof
end

