-- ==== Sys2Proof/Laws/Encoding.lean ====
section
/-! SUPPORT. The fields of a host command word, and the built requests, read back. -/

namespace Sys2Proof

/-! ## The host command word -/

theorem append_toNat' {n m : Nat} (hi : BitVec n) (lo : BitVec m) :
    (hi ++ lo).toNat = lo.toNat + 2 ^ m * hi.toNat := by
  rw [BitVec.toNat_append, ← Nat.shiftLeft_add_eq_or_of_lt lo.isLt, Nat.shiftLeft_eq, Nat.mul_comm, Nat.add_comm]

theorem mkHcw_toNat (v : Value) (a : RegAddr) (s : Bool) (w : BitVec 2) (op : BitVec 4) :
    (mkHcw v a s w op).toNat =
      op.toNat + 16 * (w.toNat + 4 * (s.toNat + 2 * (512 * (a.toNat + 65536 * v.toNat)))) := by
  have h : (mkHcw v a s w op).toNat =
      (v ++ a ++ (0 : BitVec 9) ++ BitVec.ofBool s ++ w ++ op).toNat := rfl
  rw [h]
  simp only [append_toNat', BitVec.toNat_ofBool]
  simp

@[simp] theorem hcwOp_mkHcw (v : Value) (a : RegAddr) (s : Bool) (w : BitVec 2) (op : BitVec 4) :
    hcwOp (mkHcw v a s w op) = op := by
  apply BitVec.eq_of_toNat_eq
  have := op.isLt
  simp only [hcwOp, BitVec.extractLsb'_toNat, mkHcw_toNat, Nat.shiftRight_eq_div_pow]
  omega

@[simp] theorem hcwWcode_mkHcw (v : Value) (a : RegAddr) (s : Bool) (w : BitVec 2) (op : BitVec 4) :
    hcwWcode (mkHcw v a s w op) = w := by
  apply BitVec.eq_of_toNat_eq
  have := op.isLt
  have := w.isLt
  simp only [hcwWcode, BitVec.extractLsb'_toNat, mkHcw_toNat, Nat.shiftRight_eq_div_pow]
  omega

@[simp] theorem hcwSgn_mkHcw (v : Value) (a : RegAddr) (s : Bool) (w : BitVec 2) (op : BitVec 4) :
    hcwSgn (mkHcw v a s w op) = s := by
  have := op.isLt
  have := w.isLt
  simp only [hcwSgn, BitVec.getLsbD, mkHcw_toNat, Nat.testBit_eq_decide_div_mod_eq]
  cases s <;> simp <;> omega

@[simp] theorem hcwReserved_mkHcw (v : Value) (a : RegAddr) (s : Bool) (w : BitVec 2) (op : BitVec 4) :
    hcwReserved (mkHcw v a s w op) = 0 := by
  apply BitVec.eq_of_toNat_eq
  have := op.isLt
  have := w.isLt
  have := Bool.toNat_le s
  simp only [hcwReserved, BitVec.extractLsb'_toNat, mkHcw_toNat, Nat.shiftRight_eq_div_pow]
  simp
  omega

@[simp] theorem hcwAddr_mkHcw (v : Value) (a : RegAddr) (s : Bool) (w : BitVec 2) (op : BitVec 4) :
    hcwAddr (mkHcw v a s w op) = a := by
  apply BitVec.eq_of_toNat_eq
  have := op.isLt
  have := w.isLt
  have := a.isLt
  have := Bool.toNat_le s
  simp only [hcwAddr, BitVec.extractLsb'_toNat, mkHcw_toNat, Nat.shiftRight_eq_div_pow]
  omega

@[simp] theorem hcwValue_mkHcw (v : Value) (a : RegAddr) (s : Bool) (w : BitVec 2) (op : BitVec 4) :
    hcwValue (mkHcw v a s w op) = v := by
  apply BitVec.eq_of_toNat_eq
  have := op.isLt
  have := w.isLt
  have := a.isLt
  have := v.isLt
  have := Bool.toNat_le s
  simp only [hcwValue, BitVec.extractLsb'_toNat, mkHcw_toNat, Nat.shiftRight_eq_div_pow]
  omega

/-- A word made from fields with a command's OP is not one that R180 rejects. -/
theorem hcwIllegal_mkHcw (v : Value) (a : RegAddr) (s : Bool) (w : BitVec 2) (op : BitVec 4) (h0 : op ≠ 0)
    (h9 : op.toNat < 9) : hcwIllegal (mkHcw v a s w op) = false := by
  have h0' : ¬ op = 0#4 := h0
  simp [hcwIllegal, h0', h9]

/-! ## The built requests -/

theorem buildReadRequest_eq (c : Config) (a : RegAddr) :
    buildReadRequest c a = [startOut, c.cmdReadReq, 0x02, a.setWidth 8, (a >>> 8).setWidth 8,
      xorsum [startOut, c.cmdReadReq, 0x02, a.setWidth 8, (a >>> 8).setWidth 8]] := rfl

theorem buildWriteRequest_eq (c : Config) (a : RegAddr) (v : Value) (s : Bool) :
    buildWriteRequest c a v 4 s = [startOut, c.cmdWriteReq, 0x06, a.setWidth 8, (a >>> 8).setWidth 8,
      v.setWidth 8, (v >>> 8).setWidth 8, (v >>> 8 >>> 8).setWidth 8, (v >>> 8 >>> 8 >>> 8).setWidth 8,
      xorsum [startOut, c.cmdWriteReq, 0x06, a.setWidth 8, (a >>> 8).setWidth 8,
        v.setWidth 8, (v >>> 8).setWidth 8, (v >>> 8 >>> 8).setWidth 8, (v >>> 8 >>> 8 >>> 8).setWidth 8]] := rfl

theorem decodeTx_readReq (c : Config) (a : RegAddr) : decodeTx c (buildReadRequest c a) = some (.txReadReq a) := by
  rw [buildReadRequest_eq]
  simp [decodeTx, le16_split]

theorem decodeTx_writeReq (c : Config) (a : RegAddr) (v : Value) (s : Bool) :
    decodeTx c (buildWriteRequest c a v 4 s) = some (.txWriteReq a v) := by
  have hv := le32_split v
  simp only [← BitVec.shiftRight_add, Nat.reduceAdd] at hv
  rw [buildWriteRequest_eq]
  simp [decodeTx, le16_split, hv]

/-- What decodes on the TX port encodes to the word it came from, R73 and R74. -/
theorem encode_of_decodeTx {c : Config} {w : Bytes} {i : Instr} (h : decodeTx c w = some i) :
    encode c i = .tx w := by
  unfold decodeTx at h
  split at h
  · rename_i b
    unfold decodeControl at h
    split at h
    · rename_i hb; subst hb; cases h; rfl
    · split at h
      · rename_i hb; subst hb; cases h; rfl
      · cases h
  · split at h
    · rename_i hc
      obtain ⟨rfl, rfl, rfl, rfl⟩ := hc
      cases h
      simp [encode, buildReadRequest, bytesLe_le16]
    · cases h
  · split at h
    · rename_i hc
      obtain ⟨rfl, rfl, rfl, rfl⟩ := hc
      cases h
      simp [encode, buildWriteRequest, valueField, bytesLe_le16, bytesLe_le32]
    · cases h
  · cases h

/-- Decoding of a well-formed inbound frame, R70 and R103. -/
theorem decodeRx_wellFormed {c : Config} {kd : FrameKind} {f : InFrame} (h : f.wellFormed c kd = true) :
    decodeRx c f.bytes = .ok (rxInstr kd f) := by
  have hl : f.payload.length < 256 := by
    simp only [InFrame.wellFormed, Bool.and_eq_true, decide_eq_true_eq] at h
    exact h.1.1.1
  rw [decodeRx, classify_wellFormed h]
  simp [parse_bytes hl]

end Sys2Proof
end

