-- ==== Sys2Proof/Laws/State.lean ====
section
/-! SUPPORT. One lemma for each field of each named update of the state, true by rfl. -/

namespace Sys2Proof.Machine.State

open Sys2Proof

/-! ### enterWaitStart -/

@[simp] theorem enterWaitStart_cfg (s : State) : (enterWaitStart s).cfg = s.cfg := rfl
@[simp] theorem enterWaitStart_state (s : State) : (enterWaitStart s).state = .waitStart := rfl
@[simp] theorem enterWaitStart_buf (s : State) : (enterWaitStart s).buf = [] := rfl
@[simp] theorem enterWaitStart_k (s : State) : (enterWaitStart s).k = none := rfl
@[simp] theorem enterWaitStart_pend (s : State) : (enterWaitStart s).pend = none := rfl
@[simp] theorem enterWaitStart_ecause (s : State) : (enterWaitStart s).ecause = none := rfl
@[simp] theorem enterWaitStart_cancelReq (s : State) : (enterWaitStart s).cancelReq = s.cancelReq := rfl
@[simp] theorem enterWaitStart_rdq (s : State) : (enterWaitStart s).rdq = s.rdq := rfl
@[simp] theorem enterWaitStart_wrq (s : State) : (enterWaitStart s).wrq = s.wrq := rfl
@[simp] theorem enterWaitStart_evq (s : State) : (enterWaitStart s).evq = s.evq := rfl
@[simp] theorem enterWaitStart_rxPort (s : State) : (enterWaitStart s).rxPort = s.rxPort := rfl
@[simp] theorem enterWaitStart_txAnswers (s : State) : (enterWaitStart s).txAnswers = s.txAnswers := rfl
@[simp] theorem enterWaitStart_sched (s : State) : (enterWaitStart s).sched = s.sched := rfl
@[simp] theorem enterWaitStart_txTrace (s : State) : (enterWaitStart s).txTrace = s.txTrace := rfl
@[simp] theorem enterWaitStart_popped (s : State) : (enterWaitStart s).popped = s.popped := rfl
@[simp] theorem enterWaitStart_resp (s : State) : (enterWaitStart s).resp = s.resp := rfl

/-! ### enterStopped -/

@[simp] theorem enterStopped_cfg (s : State) : (enterStopped s).cfg = s.cfg := rfl
@[simp] theorem enterStopped_state (s : State) : (enterStopped s).state = .stopped := rfl
@[simp] theorem enterStopped_buf (s : State) : (enterStopped s).buf = [] := rfl
@[simp] theorem enterStopped_k (s : State) : (enterStopped s).k = none := rfl
@[simp] theorem enterStopped_pend (s : State) : (enterStopped s).pend = none := rfl
@[simp] theorem enterStopped_ecause (s : State) : (enterStopped s).ecause = none := rfl
@[simp] theorem enterStopped_cancelReq (s : State) : (enterStopped s).cancelReq = false := rfl
@[simp] theorem enterStopped_rdq (s : State) : (enterStopped s).rdq = s.rdq := rfl
@[simp] theorem enterStopped_wrq (s : State) : (enterStopped s).wrq = s.wrq := rfl
@[simp] theorem enterStopped_evq (s : State) : (enterStopped s).evq = s.evq := rfl
@[simp] theorem enterStopped_rxPort (s : State) : (enterStopped s).rxPort = s.rxPort := rfl
@[simp] theorem enterStopped_txAnswers (s : State) : (enterStopped s).txAnswers = s.txAnswers := rfl
@[simp] theorem enterStopped_sched (s : State) : (enterStopped s).sched = s.sched := rfl
@[simp] theorem enterStopped_txTrace (s : State) : (enterStopped s).txTrace = s.txTrace := rfl
@[simp] theorem enterStopped_popped (s : State) : (enterStopped s).popped = s.popped := rfl
@[simp] theorem enterStopped_resp (s : State) : (enterStopped s).resp = s.resp := rfl

/-! ### enterTransportError -/

@[simp] theorem enterTransportError_cfg (cause : Cause) (s : State) : (enterTransportError cause s).cfg = s.cfg := rfl
@[simp] theorem enterTransportError_state (cause : Cause) (s : State) : (enterTransportError cause s).state = .transportError := rfl
@[simp] theorem enterTransportError_buf (cause : Cause) (s : State) : (enterTransportError cause s).buf = [] := rfl
@[simp] theorem enterTransportError_k (cause : Cause) (s : State) : (enterTransportError cause s).k = none := rfl
@[simp] theorem enterTransportError_pend (cause : Cause) (s : State) : (enterTransportError cause s).pend = some (.transportError cause) := rfl
@[simp] theorem enterTransportError_ecause (cause : Cause) (s : State) : (enterTransportError cause s).ecause = some cause := rfl
@[simp] theorem enterTransportError_cancelReq (cause : Cause) (s : State) : (enterTransportError cause s).cancelReq = s.cancelReq := rfl
@[simp] theorem enterTransportError_rdq (cause : Cause) (s : State) : (enterTransportError cause s).rdq = s.rdq := rfl
@[simp] theorem enterTransportError_wrq (cause : Cause) (s : State) : (enterTransportError cause s).wrq = s.wrq := rfl
@[simp] theorem enterTransportError_evq (cause : Cause) (s : State) : (enterTransportError cause s).evq = s.evq := rfl
@[simp] theorem enterTransportError_rxPort (cause : Cause) (s : State) : (enterTransportError cause s).rxPort = s.rxPort := rfl
@[simp] theorem enterTransportError_txAnswers (cause : Cause) (s : State) : (enterTransportError cause s).txAnswers = s.txAnswers := rfl
@[simp] theorem enterTransportError_sched (cause : Cause) (s : State) : (enterTransportError cause s).sched = s.sched := rfl
@[simp] theorem enterTransportError_txTrace (cause : Cause) (s : State) : (enterTransportError cause s).txTrace = s.txTrace := rfl
@[simp] theorem enterTransportError_popped (cause : Cause) (s : State) : (enterTransportError cause s).popped = s.popped := rfl
@[simp] theorem enterTransportError_resp (cause : Cause) (s : State) : (enterTransportError cause s).resp = s.resp := rfl

/-! ### enterDeliver -/

@[simp] theorem enterDeliver_cfg (e : Event) (s : State) : (enterDeliver e s).cfg = s.cfg := rfl
@[simp] theorem enterDeliver_state (e : Event) (s : State) : (enterDeliver e s).state = .deliver := rfl
@[simp] theorem enterDeliver_buf (e : Event) (s : State) : (enterDeliver e s).buf = s.buf := rfl
@[simp] theorem enterDeliver_k (e : Event) (s : State) : (enterDeliver e s).k = s.k := rfl
@[simp] theorem enterDeliver_pend (e : Event) (s : State) : (enterDeliver e s).pend = some e := rfl
@[simp] theorem enterDeliver_ecause (e : Event) (s : State) : (enterDeliver e s).ecause = s.ecause := rfl
@[simp] theorem enterDeliver_cancelReq (e : Event) (s : State) : (enterDeliver e s).cancelReq = s.cancelReq := rfl
@[simp] theorem enterDeliver_rdq (e : Event) (s : State) : (enterDeliver e s).rdq = s.rdq := rfl
@[simp] theorem enterDeliver_wrq (e : Event) (s : State) : (enterDeliver e s).wrq = s.wrq := rfl
@[simp] theorem enterDeliver_evq (e : Event) (s : State) : (enterDeliver e s).evq = s.evq := rfl
@[simp] theorem enterDeliver_rxPort (e : Event) (s : State) : (enterDeliver e s).rxPort = s.rxPort := rfl
@[simp] theorem enterDeliver_txAnswers (e : Event) (s : State) : (enterDeliver e s).txAnswers = s.txAnswers := rfl
@[simp] theorem enterDeliver_sched (e : Event) (s : State) : (enterDeliver e s).sched = s.sched := rfl
@[simp] theorem enterDeliver_txTrace (e : Event) (s : State) : (enterDeliver e s).txTrace = s.txTrace := rfl
@[simp] theorem enterDeliver_popped (e : Event) (s : State) : (enterDeliver e s).popped = s.popped := rfl
@[simp] theorem enterDeliver_resp (e : Event) (s : State) : (enterDeliver e s).resp = s.resp := rfl

/-! ### pushRead -/

@[simp] theorem pushRead_cfg (f : Bytes) (s : State) : (pushRead f s).cfg = s.cfg := rfl
@[simp] theorem pushRead_state (f : Bytes) (s : State) : (pushRead f s).state = s.state := rfl
@[simp] theorem pushRead_buf (f : Bytes) (s : State) : (pushRead f s).buf = s.buf := rfl
@[simp] theorem pushRead_k (f : Bytes) (s : State) : (pushRead f s).k = s.k := rfl
@[simp] theorem pushRead_pend (f : Bytes) (s : State) : (pushRead f s).pend = s.pend := rfl
@[simp] theorem pushRead_ecause (f : Bytes) (s : State) : (pushRead f s).ecause = s.ecause := rfl
@[simp] theorem pushRead_cancelReq (f : Bytes) (s : State) : (pushRead f s).cancelReq = s.cancelReq := rfl
@[simp] theorem pushRead_rdq (f : Bytes) (s : State) : (pushRead f s).rdq = s.rdq ++ [f] := rfl
@[simp] theorem pushRead_wrq (f : Bytes) (s : State) : (pushRead f s).wrq = s.wrq := rfl
@[simp] theorem pushRead_evq (f : Bytes) (s : State) : (pushRead f s).evq = s.evq := rfl
@[simp] theorem pushRead_rxPort (f : Bytes) (s : State) : (pushRead f s).rxPort = s.rxPort := rfl
@[simp] theorem pushRead_txAnswers (f : Bytes) (s : State) : (pushRead f s).txAnswers = s.txAnswers := rfl
@[simp] theorem pushRead_sched (f : Bytes) (s : State) : (pushRead f s).sched = s.sched := rfl
@[simp] theorem pushRead_txTrace (f : Bytes) (s : State) : (pushRead f s).txTrace = s.txTrace := rfl
@[simp] theorem pushRead_popped (f : Bytes) (s : State) : (pushRead f s).popped = s.popped := rfl
@[simp] theorem pushRead_resp (f : Bytes) (s : State) : (pushRead f s).resp = s.resp := rfl

/-! ### pushWrite -/

@[simp] theorem pushWrite_cfg (f : Bytes) (s : State) : (pushWrite f s).cfg = s.cfg := rfl
@[simp] theorem pushWrite_state (f : Bytes) (s : State) : (pushWrite f s).state = s.state := rfl
@[simp] theorem pushWrite_buf (f : Bytes) (s : State) : (pushWrite f s).buf = s.buf := rfl
@[simp] theorem pushWrite_k (f : Bytes) (s : State) : (pushWrite f s).k = s.k := rfl
@[simp] theorem pushWrite_pend (f : Bytes) (s : State) : (pushWrite f s).pend = s.pend := rfl
@[simp] theorem pushWrite_ecause (f : Bytes) (s : State) : (pushWrite f s).ecause = s.ecause := rfl
@[simp] theorem pushWrite_cancelReq (f : Bytes) (s : State) : (pushWrite f s).cancelReq = s.cancelReq := rfl
@[simp] theorem pushWrite_rdq (f : Bytes) (s : State) : (pushWrite f s).rdq = s.rdq := rfl
@[simp] theorem pushWrite_wrq (f : Bytes) (s : State) : (pushWrite f s).wrq = s.wrq ++ [f] := rfl
@[simp] theorem pushWrite_evq (f : Bytes) (s : State) : (pushWrite f s).evq = s.evq := rfl
@[simp] theorem pushWrite_rxPort (f : Bytes) (s : State) : (pushWrite f s).rxPort = s.rxPort := rfl
@[simp] theorem pushWrite_txAnswers (f : Bytes) (s : State) : (pushWrite f s).txAnswers = s.txAnswers := rfl
@[simp] theorem pushWrite_sched (f : Bytes) (s : State) : (pushWrite f s).sched = s.sched := rfl
@[simp] theorem pushWrite_txTrace (f : Bytes) (s : State) : (pushWrite f s).txTrace = s.txTrace := rfl
@[simp] theorem pushWrite_popped (f : Bytes) (s : State) : (pushWrite f s).popped = s.popped := rfl
@[simp] theorem pushWrite_resp (f : Bytes) (s : State) : (pushWrite f s).resp = s.resp := rfl

/-! ### emit -/

@[simp] theorem emit_cfg (e : Event) (s : State) : (emit e s).cfg = s.cfg := rfl
@[simp] theorem emit_state (e : Event) (s : State) : (emit e s).state = s.state := rfl
@[simp] theorem emit_buf (e : Event) (s : State) : (emit e s).buf = s.buf := rfl
@[simp] theorem emit_k (e : Event) (s : State) : (emit e s).k = s.k := rfl
@[simp] theorem emit_pend (e : Event) (s : State) : (emit e s).pend = s.pend := rfl
@[simp] theorem emit_ecause (e : Event) (s : State) : (emit e s).ecause = s.ecause := rfl
@[simp] theorem emit_cancelReq (e : Event) (s : State) : (emit e s).cancelReq = s.cancelReq := rfl
@[simp] theorem emit_rdq (e : Event) (s : State) : (emit e s).rdq = s.rdq := rfl
@[simp] theorem emit_wrq (e : Event) (s : State) : (emit e s).wrq = s.wrq := rfl
@[simp] theorem emit_evq (e : Event) (s : State) : (emit e s).evq = s.evq ++ [e] := rfl
@[simp] theorem emit_rxPort (e : Event) (s : State) : (emit e s).rxPort = s.rxPort := rfl
@[simp] theorem emit_txAnswers (e : Event) (s : State) : (emit e s).txAnswers = s.txAnswers := rfl
@[simp] theorem emit_sched (e : Event) (s : State) : (emit e s).sched = s.sched := rfl
@[simp] theorem emit_txTrace (e : Event) (s : State) : (emit e s).txTrace = s.txTrace := rfl
@[simp] theorem emit_popped (e : Event) (s : State) : (emit e s).popped = s.popped := rfl
@[simp] theorem emit_resp (e : Event) (s : State) : (emit e s).resp = s.resp := rfl

/-! ### respond -/

@[simp] theorem respond_cfg (st : HostStatus) (d : RespData) (s : State) : (respond st d s).cfg = s.cfg := rfl
@[simp] theorem respond_state (st : HostStatus) (d : RespData) (s : State) : (respond st d s).state = s.state := rfl
@[simp] theorem respond_buf (st : HostStatus) (d : RespData) (s : State) : (respond st d s).buf = s.buf := rfl
@[simp] theorem respond_k (st : HostStatus) (d : RespData) (s : State) : (respond st d s).k = s.k := rfl
@[simp] theorem respond_pend (st : HostStatus) (d : RespData) (s : State) : (respond st d s).pend = s.pend := rfl
@[simp] theorem respond_ecause (st : HostStatus) (d : RespData) (s : State) : (respond st d s).ecause = s.ecause := rfl
@[simp] theorem respond_cancelReq (st : HostStatus) (d : RespData) (s : State) : (respond st d s).cancelReq = s.cancelReq := rfl
@[simp] theorem respond_rdq (st : HostStatus) (d : RespData) (s : State) : (respond st d s).rdq = s.rdq := rfl
@[simp] theorem respond_wrq (st : HostStatus) (d : RespData) (s : State) : (respond st d s).wrq = s.wrq := rfl
@[simp] theorem respond_evq (st : HostStatus) (d : RespData) (s : State) : (respond st d s).evq = s.evq := rfl
@[simp] theorem respond_rxPort (st : HostStatus) (d : RespData) (s : State) : (respond st d s).rxPort = s.rxPort := rfl
@[simp] theorem respond_txAnswers (st : HostStatus) (d : RespData) (s : State) : (respond st d s).txAnswers = s.txAnswers := rfl
@[simp] theorem respond_sched (st : HostStatus) (d : RespData) (s : State) : (respond st d s).sched = s.sched := rfl
@[simp] theorem respond_txTrace (st : HostStatus) (d : RespData) (s : State) : (respond st d s).txTrace = s.txTrace := rfl
@[simp] theorem respond_popped (st : HostStatus) (d : RespData) (s : State) : (respond st d s).popped = s.popped := rfl
@[simp] theorem respond_resp (st : HostStatus) (d : RespData) (s : State) : (respond st d s).resp = some ⟨st, d⟩ := rfl

end Sys2Proof.Machine.State
end

