-- ==== Sys2Proof/Laws/Ops.lean ====
section
/-! SUPPORT. One spec lemma for each shared operation: everything it can do. -/

namespace Sys2Proof.Machine

open Sys2Proof

namespace State

/-! ## Capacities -/

theorem room_iff (cap : Option Nat) (n : Nat) :
    room cap n = true ↔ cap = none ∨ ∃ m, cap = some m ∧ n < m := by
  cases cap <;> simp [room]

/-- Room for one more keeps a length within its capacity, R189 and R192. -/
theorem withinCap_succ {cap : Option Nat} {n : Nat} (h : room cap n = true) : withinCap cap (n + 1) = true := by
  cases cap with
  | none => rfl
  | some m => simpa [withinCap, room] using h

theorem withinCap_mono {cap : Option Nat} {n m : Nat} (hle : n ≤ m) (h : withinCap cap m = true) :
    withinCap cap n = true := by
  cases cap with
  | none => rfl
  | some c => simp [withinCap] at h ⊢; omega

/-- Appending an accepted frame where there is room keeps a queue within its bounds, R28. -/
theorem queueWf_push {c : Config} {q : List Bytes} {f : Bytes} (h : queueWf c q = true)
    (hr : room c.qCap q.length = true) (hf : frameOk c f = true) : queueWf c (q ++ [f]) = true := by
  simp only [queueWf, Bool.and_eq_true, List.all_append, List.length_append] at h ⊢
  exact ⟨withinCap_succ hr, h.2, by simp [hf]⟩

/-- Removing the head keeps a queue within its bounds, R28. -/
theorem queueWf_tail {c : Config} {q : List Bytes} (h : queueWf c q = true) : queueWf c q.tail = true := by
  simp only [queueWf, Bool.and_eq_true, List.all_eq_true] at h ⊢
  exact ⟨withinCap_mono (by simp) h.1, fun x hx => h.2 x (List.mem_of_mem_tail hx)⟩

/-! ## The TX port -/

/-- R54 on TxOk: the whole word is on the wire and the step goes on. -/
theorem transmit_ok {s : State} (h : s.nextTxFails = false) (w : Bytes) (done : State → State) :
    transmit w done s = done { s with txAnswers := s.txAnswers.tail, txTrace := s.txTrace ++ w } := by
  unfold transmit
  split <;> rename_i heq
  · simp [heq]
  · simp [heq]
  · simp [nextTxFails, heq] at h

/-- R54 and R152 on TxFail: the reported part is on the wire, and the transport failure is entered. -/
theorem transmit_fail {s : State} {n : Nat} {rest : List TxAnswer} (h : s.txAnswers = .fail n :: rest)
    (w : Bytes) (done : State → State) :
    transmit w done s =
      enterTransportError .tx { s with txAnswers := rest, txTrace := s.txTrace ++ w.take n } := by
  simp [transmit, h]

/-- The two answers of DEV. -/
theorem nextTxFails_cases (s : State) :
    s.nextTxFails = false ∨ ∃ n rest, s.txAnswers = .fail n :: rest := by
  unfold nextTxFails
  split
  · rename_i n rest heq; exact .inr ⟨n, rest, heq⟩
  · exact .inl rfl

/-- Everything a TX write can do, R54. -/
theorem transmit_cases (s : State) (w : Bytes) (done : State → State) :
    (s.nextTxFails = false ∧
      transmit w done s = done { s with txAnswers := s.txAnswers.tail, txTrace := s.txTrace ++ w }) ∨
    (∃ n rest, s.txAnswers = .fail n :: rest ∧
      transmit w done s =
        enterTransportError .tx { s with txAnswers := rest, txTrace := s.txTrace ++ w.take n }) := by
  rcases nextTxFails_cases s with h | ⟨n, rest, h⟩
  · exact .inl ⟨h, transmit_ok h w done⟩
  · exact .inr ⟨n, rest, h, transmit_fail h w done⟩

theorem tokenAnswer_eq (q : List Bytes) : tokenAnswer q = q.headD [0x06] := by
  cases q <;> rfl

/-! ## Every storage operation keeps the bounds of R22, R28 and R29 -/

theorem storageWf_iff (s : State) :
    s.storageWf = true ↔ s.buf.length ≤ s.cfg.bufCap ∧ queueWf s.cfg s.rdq = true ∧ queueWf s.cfg s.wrq = true ∧
      withinCap s.cfg.evqCap s.evq.length = true := by
  simp [storageWf, and_assoc]

theorem storageWf_enterWaitStart {s : State} (h : s.storageWf = true) : (enterWaitStart s).storageWf = true := by
  rw [storageWf_iff] at h ⊢
  exact ⟨by simp, h.2⟩

theorem storageWf_enterStopped {s : State} (h : s.storageWf = true) : (enterStopped s).storageWf = true := by
  rw [storageWf_iff] at h ⊢
  exact ⟨by simp, h.2⟩

theorem storageWf_enterTransportError {s : State} (cause : Cause) (h : s.storageWf = true) :
    (enterTransportError cause s).storageWf = true := by
  rw [storageWf_iff] at h ⊢
  exact ⟨by simp, h.2⟩

theorem storageWf_appendByte {s t : State} {b : Byte} (ha : appendByte b s = some t) (h : s.storageWf = true) :
    t.storageWf = true := by
  unfold appendByte at ha
  split at ha
  · cases ha
    rw [storageWf_iff] at h ⊢
    exact ⟨by simp; omega, h.2⟩
  · cases ha

theorem storageWf_pushRead {s : State} {f : Bytes} (h : s.storageWf = true) (hf : frameOk s.cfg f = true)
    (hr : room s.cfg.qCap s.rdq.length = true) : (pushRead f s).storageWf = true := by
  rw [storageWf_iff] at h ⊢
  exact ⟨h.1, queueWf_push h.2.1 hr hf, h.2.2⟩

theorem storageWf_pushWrite {s : State} {f : Bytes} (h : s.storageWf = true) (hf : frameOk s.cfg f = true)
    (hr : room s.cfg.qCap s.wrq.length = true) : (pushWrite f s).storageWf = true := by
  rw [storageWf_iff] at h ⊢
  exact ⟨h.1, h.2.1, queueWf_push h.2.2.1 hr hf, h.2.2.2⟩

theorem storageWf_emit {s : State} (e : Event) (h : s.storageWf = true) (hr : s.evqRoom = true) :
    (emit e s).storageWf = true := by
  rw [storageWf_iff] at h ⊢
  exact ⟨h.1, h.2.1, h.2.2.1, by simpa [emit] using withinCap_succ hr⟩

end State

/-! ## Delivery -/

/-- Everything `emitPending` can do, R149 and R153. -/
theorem emitPending_cases (done : State → State) (s : State) :
    (s.evqRoom = false ∧ emitPending done s = .next s) ∨
    (s.evqRoom = true ∧ ∃ e, s.pend = some e ∧ emitPending done s = .next (done (State.emit e s))) ∨
    (s.evqRoom = true ∧ s.pend = none ∧ emitPending done s = .fault .readsNoValue) := by
  unfold emitPending
  cases hr : s.evqRoom <;> cases hp : s.pend <;> simp

/-! ## Inputs -/

/-- Everything an input state's step can do, R140, R142 to R145. -/
theorem inputStep_cases (s : State) :
    (s.cancelReq = true ∧ inputStep s = .next (State.enterStopped s)) ∨
    (s.cancelReq = false ∧ s.rxPort = [] ∧ inputStep s = .next s) ∨
    (s.cancelReq = false ∧ ∃ rest, s.rxPort = .fail :: rest ∧
      inputStep s = .next (State.enterTransportError .rx { s with rxPort := rest })) ∨
    (s.cancelReq = false ∧ ∃ b rest, s.rxPort = .byte b :: rest ∧
      inputStep s = takeByte b { s with rxPort := rest }) := by
  unfold inputStep
  cases hc : s.cancelReq
  · rcases hp : s.rxPort with _ | ⟨x, rest⟩
    · simp
    · cases x <;> simp
  · simp

/-- Everything WAIT_DATA can do with a byte that is in range, R144. -/
theorem dataByte_eq {s : State} (h : s.buf.length < s.cfg.bufCap) (b : Byte) :
    dataByte b s = .next (match classify s.cfg (s.buf ++ [b]) with
      | .incomplete => { s with buf := s.buf ++ [b] }
      | .invalid => State.enterWaitStart { s with buf := s.buf ++ [b] }
      | .checksumFailure => { s with buf := s.buf ++ [b], state := .crcFailure }
      | .valid kd => { s with buf := s.buf ++ [b], state := .okMessage, k := some kd }) := by
  simp only [dataByte, State.appendByte, h, if_true, State.afterAppend]
  all_goals cases classify s.cfg (s.buf ++ [b]) <;> rfl

end Sys2Proof.Machine
end

