-- ==== Sys2Proof/Laws/PerInstr.lean ====
section
/-! SUPPORT. One lemma for each instruction: decoding its encoding gives it back. -/

namespace Sys2Proof.Laws.RoundTrip

open Sys2Proof

/-- The instruction survives encoding and decoding under every configuration it is well-formed in. -/
def Statement (i : Instr) : Prop := ∀ c : Config, i.wellFormed c = true → decode c (encode c i) = .ok i

/-- A word made from fields decodes on its OP. -/
theorem decodeHost_mkHcw (v : Value) (a : RegAddr) (s : Bool) (w : BitVec 2) (op : BitVec 4) (fr : Bytes)
    (h0 : op ≠ 0) (h9 : op.toNat < 9) :
    decodeHost (mkHcw v a s w op) fr = match op.toNat with
      | 1 => .connect
      | 2 => .disconnect
      | 3 => .enqRead fr
      | 4 => .enqWrite fr
      | 5 => .buildRead a
      | 6 => .buildWrite a v w s
      | 7 => .status
      | 8 => .eventPop
      | _ => .reservedOp (mkHcw v a s w op) := by
  simp only [decodeHost, hcwIllegal_mkHcw v a s w op h0 h9, hcwOp_mkHcw, hcwAddr_mkHcw, hcwValue_mkHcw,
    hcwWcode_mkHcw, hcwSgn_mkHcw]
  rfl

theorem connect : Statement .connect := fun c _ => by
  simp [encode, decode, opHcw, decodeHost_mkHcw]

theorem disconnect : Statement .disconnect := fun c _ => by
  simp [encode, decode, opHcw, decodeHost_mkHcw]

theorem enqRead (frame : Bytes) : Statement (.enqRead frame) := fun c _ => by
  simp [encode, decode, opHcw, decodeHost_mkHcw]

theorem enqWrite (frame : Bytes) : Statement (.enqWrite frame) := fun c _ => by
  simp [encode, decode, opHcw, decodeHost_mkHcw]

theorem buildRead (addr : RegAddr) : Statement (.buildRead addr) := fun c _ => by
  simp [encode, decode, decodeHost_mkHcw]

theorem buildWrite (addr : RegAddr) (value : Value) (wcode : BitVec 2) (sgn : Bool) :
    Statement (.buildWrite addr value wcode sgn) := fun c _ => by
  simp [encode, decode, decodeHost_mkHcw]

theorem status : Statement .status := fun c _ => by
  simp [encode, decode, opHcw, decodeHost_mkHcw]

theorem eventPop : Statement .eventPop := fun c _ => by
  simp [encode, decode, opHcw, decodeHost_mkHcw]

theorem reservedOp (hcw : Hcw) : Statement (.reservedOp hcw) := fun c h => by
  have h' : hcwIllegal hcw = true := h
  simp [encode, decode, decodeHost, h']

theorem rxReadToken (f : InFrame) : Statement (.rxReadToken f) := fun _ h => decodeRx_wellFormed (kd := .readToken) h

theorem rxWriteToken (f : InFrame) : Statement (.rxWriteToken f) := fun _ h => decodeRx_wellFormed (kd := .writeToken) h

theorem rxBroadcast (f : InFrame) : Statement (.rxBroadcast f) := fun _ h => decodeRx_wellFormed (kd := .broadcast) h

theorem rxReadResp (f : InFrame) : Statement (.rxReadResp f) := fun _ h => decodeRx_wellFormed (kd := .readResp) h

theorem rxWriteResp (f : InFrame) : Statement (.rxWriteResp f) := fun _ h => decodeRx_wellFormed (kd := .writeResp) h

theorem rxAuxBroadcast (f : InFrame) : Statement (.rxAuxBroadcast f) := fun _ h => decodeRx_wellFormed (kd := .auxBroadcast) h

theorem rxOther (f : InFrame) : Statement (.rxOther f) := fun _ h => decodeRx_wellFormed (kd := .other) h

theorem txReadReq (addr : RegAddr) : Statement (.txReadReq addr) := fun c _ => by
  simp [encode, decode, decodeTx_readReq]

theorem txWriteReq (addr : RegAddr) (value : Value) : Statement (.txWriteReq addr value) := fun c _ => by
  simp [encode, decode, decodeTx_writeReq]

theorem txAck : Statement .txAck := fun c _ => by simp [encode, decode, decodeTx, decodeControl]

theorem txNak : Statement .txNak := fun c _ => by simp [encode, decode, decodeTx, decodeControl, ackByte, nakByte]

end Sys2Proof.Laws.RoundTrip
end

