-- ==== Sys2Proof/Laws/Step.lean ====
section
/-! SUPPORT. What a step is, said once: by the move at the head of the schedule, and for ARB by its state. -/

namespace Sys2Proof.Machine

open Sys2Proof

/-- ARB's move, run: the right side of `step` for a schedule headed by ARB. -/
def arbMove (s : State) : Result :=
  match fetchArb s with
  | .instr i t => exec i t
  | .done r => r

/-! ## By the move -/

theorem step_badConfig {s : State} (h : s.cfg.wf = false) : step s = .refused .badConfig := by
  simp [step, fetch, h]

theorem step_idle {s : State} (hw : s.cfg.wf = true) (h : s.sched = []) : step s = .next s := by
  simp [step, fetch, hw, h]

theorem step_host {s : State} {hcw : Hcw} {frame : Bytes} {rest : List Move} (hw : s.cfg.wf = true)
    (h : s.sched = .host hcw frame :: rest) : step s = exec (decodeHost hcw frame) { s with sched := rest } := by
  simp [step, fetch, hw, h, fetchMove]

theorem step_dev {s : State} {d : DevMove} {rest : List Move} (hw : s.cfg.wf = true)
    (h : s.sched = .dev d :: rest) : step s = .next (State.devStep d { s with sched := rest }) := by
  simp [step, fetch, hw, h, fetchMove]

theorem step_arb {s : State} {rest : List Move} (hw : s.cfg.wf = true) (h : s.sched = .arb :: rest) :
    step s = arbMove { s with sched := rest } := by
  simp only [step, fetch, hw, h, fetchMove, arbMove, if_true]
  all_goals rfl

/-- Every way a step answers a next state: no move, or a host's, DEV's or ARB's move. -/
theorem step_next_cases {s t : State} (h : step s = .next t) :
    s.cfg.wf = true ∧
      ((s.sched = [] ∧ t = s) ∨
       (∃ hcw frame rest, s.sched = .host hcw frame :: rest ∧
          exec (decodeHost hcw frame) { s with sched := rest } = .next t) ∨
       (∃ d rest, s.sched = .dev d :: rest ∧ t = State.devStep d { s with sched := rest }) ∨
       (∃ rest, s.sched = .arb :: rest ∧ arbMove { s with sched := rest } = .next t)) := by
  cases hw : s.cfg.wf
  · rw [step_badConfig hw] at h; cases h
  · refine ⟨rfl, ?_⟩
    rcases hs : s.sched with _ | ⟨m, rest⟩
    · rw [step_idle hw hs] at h; cases h; exact .inl ⟨rfl, rfl⟩
    · cases m with
      | arb => rw [step_arb hw hs] at h; exact .inr (.inr (.inr ⟨rest, rfl, h⟩))
      | host hcw frame => rw [step_host hw hs] at h; exact .inr (.inl ⟨hcw, frame, rest, rfl, h⟩)
      | dev d => rw [step_dev hw hs] at h; cases h; exact .inr (.inr (.inl ⟨d, rest, rfl, rfl⟩))

/-! ## By the arbiter's state -/

/-- The meaning of an outbound instruction is the TX step of its word. -/
theorem exec_tx {s : State} {i : Instr} {w : Bytes} (h : encode s.cfg i = .tx w) : exec i s = transmitStep w s := by
  cases i <;> simp only [encode, PortWord.tx.injEq, reduceCtorEq] at h <;> subst h <;> rfl

theorem arbMove_input {s : State} (h : s.state = .waitStart ∨ s.state = .waitData) : arbMove s = inputStep s := by
  rcases h with h | h <;> simp [arbMove, fetchArb, h]

theorem arbMove_ok {s : State} {kd : FrameKind} {f : InFrame} (h : s.state = .okMessage) (hk : s.k = some kd)
    (hf : InFrame.parse s.buf = some f) : arbMove s = exec (rxInstr kd f) s := by
  simp [arbMove, fetchArb, h, hk, hf]

theorem arbMove_crc {s : State} (h : s.state = .crcFailure) : arbMove s = .next s.sendNak := by
  simp [arbMove, fetchArb, h, exec, execTxNak, transmitStep]

theorem arbMove_read {s : State} (h : s.state = .readTokenReceived) : arbMove s = .next s.serveReadToken := by
  simp only [arbMove, fetchArb, h, fetchService]
  cases hd : decodeTx s.cfg (State.tokenAnswer s.rdq) with
  | none => rfl
  | some i =>
    show exec i s = _
    rw [exec_tx (encode_of_decodeTx hd)]
    simp [transmitStep, h]

theorem arbMove_write {s : State} (h : s.state = .writeTokenReceived) : arbMove s = .next s.serveWriteToken := by
  simp only [arbMove, fetchArb, h, fetchService]
  cases hd : decodeTx s.cfg (State.tokenAnswer s.wrq) with
  | none => rfl
  | some i =>
    show exec i s = _
    rw [exec_tx (encode_of_decodeTx hd)]
    simp [transmitStep, h]

theorem arbMove_deliver {s : State} (h : s.state = .deliver) : arbMove s = deliverStep s := by
  simp [arbMove, fetchArb, h]

theorem arbMove_error {s : State} (h : s.state = .transportError) : arbMove s = reportStep s := by
  simp [arbMove, fetchArb, h]

theorem arbMove_stopped {s : State} (h : s.state = .stopped) : arbMove s = .next s := by
  simp [arbMove, fetchArb, h]

/-! ## The inbound meanings in OK_MESSAGE -/

theorem exec_data {s : State} (h : s.state = .okMessage) (d : DataKind) (f : InFrame) :
    exec (rxInstr d.kind f) s = .next (s.ackAndDecode d f) := by
  cases d <;>
    simp [rxInstr, DataKind.kind, exec, execRxBroadcast, execRxReadResp, execRxWriteResp, execRxAuxBroadcast,
      execRxOther, receiveData, h]

theorem exec_readToken {s : State} (h : s.state = .okMessage) (f : InFrame) :
    exec (.rxReadToken f) s = .next { s with state := .readTokenReceived } := by
  simp [exec, execRxReadToken, h]

theorem exec_writeToken {s : State} (h : s.state = .okMessage) (f : InFrame) :
    exec (.rxWriteToken f) s = .next { s with state := .writeTokenReceived } := by
  simp [exec, execRxWriteToken, h]

/-- A frame kind is a token or a data kind. -/
theorem kind_cases (kd : FrameKind) :
    kd = .readToken ∨ kd = .writeToken ∨ ∃ d : DataKind, kd = d.kind ∧ kd.toData = some d := by
  cases kd
  · exact .inr (.inr ⟨.broadcast, rfl, rfl⟩)
  · exact .inr (.inr ⟨.readResp, rfl, rfl⟩)
  · exact .inr (.inr ⟨.writeResp, rfl, rfl⟩)
  · exact .inl rfl
  · exact .inr (.inl rfl)
  · exact .inr (.inr ⟨.auxBroadcast, rfl, rfl⟩)
  · exact .inr (.inr ⟨.other, rfl, rfl⟩)

@[simp] theorem toData_kind (d : DataKind) : d.kind.toData = some d := by cases d <;> rfl

/-- Everything ARB's move can do in OK_MESSAGE, R147 and R148. -/
theorem arbMove_ok_cases {s : State} (h : s.state = .okMessage) :
    (s.k = some .readToken ∧ (InFrame.parse s.buf).isSome = true ∧
      arbMove s = .next { s with state := .readTokenReceived }) ∨
    (s.k = some .writeToken ∧ (InFrame.parse s.buf).isSome = true ∧
      arbMove s = .next { s with state := .writeTokenReceived }) ∨
    (∃ (d : DataKind) (f : InFrame), s.k = some d.kind ∧ InFrame.parse s.buf = some f ∧
      arbMove s = .next (s.ackAndDecode d f)) ∨
    ((s.k = none ∨ InFrame.parse s.buf = none) ∧ arbMove s = .fault .readsNoValue) := by
  rcases Option.eq_none_or_eq_some s.k with hk | ⟨kd, hk⟩
  · exact .inr (.inr (.inr ⟨.inl hk, by simp [arbMove, fetchArb, h, hk]⟩))
  · rcases Option.eq_none_or_eq_some (InFrame.parse s.buf) with hf | ⟨f, hf⟩
    · exact .inr (.inr (.inr ⟨.inr hf, by simp [arbMove, fetchArb, h, hk, hf]⟩))
    · have ha := arbMove_ok h hk hf
      rcases kind_cases kd with rfl | rfl | ⟨d, rfl, hd⟩
      · exact .inl ⟨hk, by simp [hf], ha.trans (exec_readToken h f)⟩
      · exact .inr (.inl ⟨hk, by simp [hf], ha.trans (exec_writeToken h f)⟩)
      · exact .inr (.inr (.inl ⟨d, f, hk, hf, ha.trans (exec_data h d f)⟩))

/-! ## Host commands -/

/-- Every host command answers, with the response it leaves: the one inversion of their meanings, R181 to R188. -/
theorem exec_host_cases {i : Instr} (hi : i.isHost = true) (s : State) :
    (∃ st d, exec i s = .next (State.respond st d s)) ∨
    (i = .connect ∧ s.state = .stopped ∧
      exec i s = .next (State.respond .ok .none (State.enterWaitStart { s with cancelReq := false }))) ∨
    (i = .disconnect ∧ s.state ≠ .stopped ∧
      exec i s = .next (State.respond .ok .none { s with cancelReq := true })) ∨
    (∃ f, i = .enqRead f ∧ State.frameOk s.cfg f = true ∧ State.room s.cfg.qCap s.rdq.length = true ∧
      exec i s = .next (State.respond .ok .none (State.pushRead f s))) ∨
    (∃ f, i = .enqWrite f ∧ State.frameOk s.cfg f = true ∧ State.room s.cfg.qCap s.wrq.length = true ∧
      exec i s = .next (State.respond .ok .none (State.pushWrite f s))) ∨
    (∃ e q, i = .eventPop ∧ s.evq = e :: q ∧
      exec i s = .next (State.respond .ok (.event e) { s with evq := q, popped := s.popped ++ [e] })) := by
  cases i with
  | connect =>
    by_cases h : s.state = .stopped
    · exact .inr (.inl ⟨rfl, h, by simp [exec, execConnect, h]⟩)
    · exact .inl ⟨.busy, .none, by simp [exec, execConnect, h]⟩
  | disconnect =>
    by_cases h : s.state = .stopped
    · exact .inl ⟨.ok, .none, by simp [exec, execDisconnect, h]⟩
    · exact .inr (.inr (.inl ⟨rfl, h, by simp [exec, execDisconnect, h]⟩))
  | enqRead f =>
    by_cases hf : State.frameOk s.cfg f = true
    · by_cases hr : State.room s.cfg.qCap s.rdq.length = true
      · exact .inr (.inr (.inr (.inl ⟨f, rfl, hf, hr, by simp [exec, execEnqRead, hf, hr]⟩)))
      · exact .inl ⟨.qfull, .none, by simp [exec, execEnqRead, hf, hr]⟩
    · exact .inl ⟨.illegal, .none, by simp [exec, execEnqRead, hf]⟩
  | enqWrite f =>
    by_cases hf : State.frameOk s.cfg f = true
    · by_cases hr : State.room s.cfg.qCap s.wrq.length = true
      · exact .inr (.inr (.inr (.inr (.inl ⟨f, rfl, hf, hr, by simp [exec, execEnqWrite, hf, hr]⟩))))
      · exact .inl ⟨.qfull, .none, by simp [exec, execEnqWrite, hf, hr]⟩
    · exact .inl ⟨.illegal, .none, by simp [exec, execEnqWrite, hf]⟩
  | buildRead a => exact .inl ⟨_, _, rfl⟩
  | buildWrite a v w sgn =>
    cases hw : wcodeBytes w with
    | none => exact .inl ⟨.illegal, .none, by simp [exec, execBuildWrite, hw]⟩
    | some n => exact .inl ⟨.ok, .frame (buildWriteRequest s.cfg a v n sgn), by simp [exec, execBuildWrite, hw]⟩
  | status => exact .inl ⟨_, _, rfl⟩
  | eventPop =>
    rcases he : s.evq with _ | ⟨e, q⟩
    · exact .inl ⟨.empty, .none, by simp [exec, execEventPop, he]⟩
    · exact .inr (.inr (.inr (.inr (.inr ⟨e, q, rfl, rfl, by simp [exec, execEventPop, he]⟩))))
  | reservedOp h => exact .inl ⟨_, _, rfl⟩
  | rxReadToken f => cases hi
  | rxWriteToken f => cases hi
  | rxBroadcast f => cases hi
  | rxReadResp f => cases hi
  | rxWriteResp f => cases hi
  | rxAuxBroadcast f => cases hi
  | rxOther f => cases hi
  | txReadReq a => cases hi
  | txWriteReq a v => cases hi
  | txAck => cases hi
  | txNak => cases hi

/-- What the command port carries is a host command, R85 and R180. -/
theorem decodeHost_isHost (h : Hcw) (frame : Bytes) : (decodeHost h frame).isHost = true := by
  unfold decodeHost
  split
  · rfl
  · split <;> rfl

/-! ## Runs -/

theorem run_zero (s : State) : Sys2Proof.core.run 0 s = .next s := rfl

theorem run_next {n : Nat} {s t : State} (h : step s = .next t) :
    Sys2Proof.core.run (n + 1) s = Sys2Proof.core.run n t := by
  have hc : Sys2Proof.core.step s = .next t := h
  simp only [Host.Core.run, hc]

/-- A run that answers a next state takes a step that does. -/
theorem run_succ {n : Nat} {s t : State} (h : Sys2Proof.core.run (n + 1) s = .next t) :
    ∃ u, step s = .next u ∧ Sys2Proof.core.run n u = .next t := by
  cases hs : step s with
  | next u => exact ⟨u, rfl, run_next hs ▸ h⟩
  | fault r =>
    have hc : Sys2Proof.core.step s = .fault r := hs
    simp only [Host.Core.run, hc] at h
    cases h
  | refused r =>
    have hc : Sys2Proof.core.step s = .refused r := hs
    simp only [Host.Core.run, hc] at h
    cases h

end Sys2Proof.Machine
end

