-- ==== Sys2Proof/Tests/Slice0.lean ====
section
/-! SUPPORT. Tests whose expected results are worked examples and vectors of spec/ (named in each comment), the smoke
tests of WellFormed, and for each statement with hypotheses a witness that meets them together. -/

namespace Sys2Proof.Tests

open Sys2Proof Sys2Proof.Machine

/-! ## Helpers -/

/-- The reference configuration of the spec's vectors. -/
def ref : Config := Config.reference

/-- Whether the outcome is a next state that passes a check. -/
def after (r : Result) (p : State → Bool) : Bool :=
  match r with
  | .next t => p t
  | _ => false

/-- Whether a decoding is this instruction. -/
def decodesTo (w : PortWord) (i : Instr) : Bool :=
  match decode ref w with
  | .ok j => decide (j = i)
  | .error _ => false

/-- Whether a decoding is refused for this reason. -/
def decodeFails (w : PortWord) (e : DecodeError) : Bool :=
  match decode ref w with
  | .ok _ => false
  | .error x => decide (x = e)

/-- ARB in a state, ARB moving next, everything else as reset leaves it. -/
def arbIn (st : ArbState) : State := { State.reset with state := st, sched := [.arb] }

/-- OK_MESSAGE with a frame and its kind. -/
def okWith (kd : FrameKind) (bytes : Bytes) : State := { arbIn .okMessage with buf := bytes, k := some kd }

/-- Whether the response has this status. -/
def answers (st : HostStatus) (d : RespData) (t : State) : Bool := decide (t.resp = some ⟨st, d⟩)

/-- The read request of vector B1. -/
def b1 : Bytes := [0xC0, 0x69, 0x02, 0x4D, 0x9C, 0x7A]

/-- The read token of L1-0. -/
def tokenR : InFrame := ⟨0x20, 0x69, [], 0x49⟩

/-- The write token of vector C7. -/
def tokenW : InFrame := ⟨0x20, 0x6B, [], 0x4B⟩

/-- The read response of vector D6. -/
def d6 : InFrame := ⟨0x20, 0x6A, [0x4D, 0x9C, 0xFB, 0xFF, 0xFF, 0xFF], 0x99⟩

/-- The stuffed read response of vectors S7 and D7. -/
def d7 : InFrame := ⟨0x20, 0x6A, [0x4D, 0x9C, 0x5C, 0x5C, 0x5C, 0x5C, 0x00, 0x00], 0x93⟩

/-- The auxiliary broadcast of vector D14. -/
def d14 : InFrame := ⟨0x19, 0x60, [0x34, 0x12, 0xFE, 0xFF, 0x80], 0xDB⟩

/-- The frame of another device, vector D16. -/
def d16 : InFrame := ⟨0x16, 0x60, [0xAB], 0xDC⟩

/-- A configuration with BUF_CAP = 20. -/
def small : Config := { ref with bufCap := 20 }

/-- An OTHER frame of the greatest length that fits BUF_CAP = 20: 14 zero bytes, checksum 0x20 ^ 0x55 ^ 0x0E. -/
def longest : InFrame := ⟨0x20, 0x55, List.replicate 14 0x00, 0x7B⟩

/-! ## WellFormed: an ill-formed term for each check -/

/-- R70: one byte cannot hold N = 256. -/
theorem test_wf_refuses_length_256 :
    (InFrame.mk 0x20 0x55 (List.replicate 256 0x00) 0x75).wellFormed { ref with bufCap := 300 } .other = false := by
  unfold InFrame.wellFormed
  rw [List.length_replicate]
  rfl

/-- R103: N + 6 = 21 is more than BUF_CAP = 20 (checksum 0x20 ^ 0x55 ^ 0x0F). -/
theorem test_wf_refuses_length_over_capacity :
    (InFrame.mk 0x20 0x55 (List.replicate 15 0x00) 0x7A).wellFormed small .other = false := by decide

/-- R102, vector X5. -/
theorem test_wf_refuses_bad_checksum : (Instr.rxReadToken ⟨0x20, 0x69, [], 0x48⟩).wellFormed ref = false := by decide

/-- R78: a read token is no write token. -/
theorem test_wf_refuses_wrong_kind : (Instr.rxWriteToken tokenR).wellFormed ref = false := by decide

/-- R180: STATUS is a word with a meaning of its own. -/
theorem test_wf_refuses_reserved_of_a_command : (Instr.reservedOp 0x7).wellFormed ref = false := by decide

/-- R8 (a): two inbound command bytes equal. -/
theorem test_config_refuses_equal_commands : { ref with cmdBroadcast := 0x69 }.wf = false := by decide

/-- R8 (b): the two addresses equal (0x19 is one of the two auxiliary addresses of R7). -/
theorem test_config_refuses_equal_addresses : { ref with primaryAddr := 0x19 }.wf = false := by decide

/-- R8 (c): a field of 3 bytes. -/
theorem test_config_refuses_field_width : { ref with auxFields := [⟨1, 0, 3, true⟩] }.wf = false := by decide

/-- R8 (d): BUF_CAP below 6. -/
theorem test_config_refuses_small_buffer : { ref with bufCap := 5 }.wf = false := by decide

/-- R8 (e): FRAME_MAX below 10. -/
theorem test_config_refuses_small_frame_max : { ref with frameMax := 9 }.wf = false := by decide

/-- R8 (f): EVQ_CAP = 0. -/
theorem test_config_refuses_no_event_room : { ref with evqCap := some 0 }.wf = false := by decide

/-- R7: AUX_ADDR is 0x16 or 0x19. -/
theorem test_config_refuses_aux_address : { ref with auxAddr := 0x17 }.wf = false := by decide

/-- R7: at most three fields. -/
theorem test_config_refuses_four_fields :
    { ref with auxFields := List.replicate 4 ⟨1, 0, 1, true⟩ }.wf = false := by decide

theorem test_config_reference : ref.wf = true := by decide

/-! ## Decoding: words written out from the spec -/

/-- R84 and R85; vectors H2, H16, H11, H7, H8, H1, H15. -/
theorem test_decode_connect : decodesTo (.host 0x0000000000000001 []) .connect = true := by decide
theorem test_decode_disconnect : decodesTo (.host 0x0000000000000002 []) .disconnect = true := by decide
theorem test_decode_enqRead : decodesTo (.host 0x0000000000000003 b1) (.enqRead b1) = true := by decide
theorem test_decode_enqWrite : decodesTo (.host 0x0000000000000004 b1) (.enqWrite b1) = true := by decide
theorem test_decode_buildRead : decodesTo (.host 0x000000009C4D0005 []) (.buildRead 40013) = true := by decide
theorem test_decode_buildWrite :
    decodesTo (.host 0xFFFFFFFB9C4D0056 []) (.buildWrite 40013 0xFFFFFFFB 1 true) = true := by decide
theorem test_decode_status : decodesTo (.host 0x0000000000000007 []) .status = true := by decide
theorem test_decode_eventPop : decodesTo (.host 0x0000000000000008 []) .eventPop = true := by decide

/-- Vectors H4, H5, H6. -/
theorem test_decode_reservedOp :
    (decodesTo (.host 0x0000000000000000 []) (.reservedOp 0x0) &&
     decodesTo (.host 0x0000000000000009 []) (.reservedOp 0x9) &&
     decodesTo (.host 0x000000000000000F []) (.reservedOp 0xF) &&
     decodesTo (.host 0x0000000000000087 []) (.reservedOp 0x87)) = true := by decide

/-- R70: L1-0, and vectors C7, D4, D6, D11, D14, D16. -/
theorem test_decode_rxReadToken :
    decodesTo (.rx [0x5C, 0x00, 0x20, 0x69, 0x00, 0x49]) (.rxReadToken tokenR) = true := by decide
theorem test_decode_rxWriteToken :
    decodesTo (.rx [0x5C, 0x00, 0x20, 0x6B, 0x00, 0x4B]) (.rxWriteToken tokenW) = true := by decide
theorem test_decode_rxBroadcast :
    decodesTo (.rx [0x5C, 0x00, 0x20, 0x68, 0x03, 0x01, 0x00, 0x02, 0x48])
      (.rxBroadcast ⟨0x20, 0x68, [0x01, 0x00, 0x02], 0x48⟩) = true := by decide
theorem test_decode_rxReadResp :
    decodesTo (.rx [0x5C, 0x00, 0x20, 0x6A, 0x06, 0x4D, 0x9C, 0xFB, 0xFF, 0xFF, 0xFF, 0x99]) (.rxReadResp d6)
      = true := by decide
theorem test_decode_rxWriteResp :
    decodesTo (.rx [0x5C, 0x00, 0x20, 0x6C, 0x01, 0x11, 0xC5]) (.rxWriteResp ⟨0x20, 0x6C, [0x11], 0xC5⟩)
      = true := by decide
theorem test_decode_rxAuxBroadcast :
    decodesTo (.rx [0x5C, 0x00, 0x19, 0x60, 0x05, 0x34, 0x12, 0xFE, 0xFF, 0x80, 0xDB]) (.rxAuxBroadcast d14)
      = true := by decide
theorem test_decode_rxOther :
    decodesTo (.rx [0x5C, 0x00, 0x16, 0x60, 0x01, 0xAB, 0xDC]) (.rxOther d16) = true := by decide

/-- Vectors C2, C3, C8, and a byte too many. -/
theorem test_decode_refuses :
    (decodeFails (.rx [0x5C, 0x00, 0x20, 0x69]) .incomplete && decodeFails (.rx [0x5C, 0x01]) .invalid &&
     decodeFails (.rx [0x5C, 0x00, 0x20, 0x69, 0x00, 0xC5]) .checksumFailure &&
     decodeFails (.rx [0x5C, 0x00, 0x20, 0x69, 0x00, 0x49, 0x00]) .trailingBytes &&
     decodeFails (.tx [0x07]) .notOutbound) = true := by decide

/-- Vectors B1, B10, and L1-9. -/
theorem test_decode_txReadReq : decodesTo (.tx b1) (.txReadReq 40013) = true := by decide
theorem test_decode_txWriteReq :
    decodesTo (.tx [0xC0, 0x6B, 0x06, 0x01, 0x00, 0xFF, 0xFF, 0xFF, 0x7F, 0x2C]) (.txWriteReq 1 0x7FFFFFFF)
      = true := by decide
theorem test_decode_txAck : decodesTo (.tx [0x06]) .txAck = true := by decide
theorem test_decode_txNak : decodesTo (.tx [0x15]) .txNak = true := by decide

/-! ## Codec -/

/-- L1-2. -/
theorem test_checksum_alias :
    (verifyChecksum [0x5C, 0x00, 0x20, 0x6C, 0x01, 0x11, 0xC5] 1 &&
     verifyChecksum [0x5C, 0x00, 0x20, 0x6C, 0x01, 0x11, 0x5C] 1 &&
     !verifyChecksum [0x5C, 0x00, 0x20, 0x6C, 0x01, 0x11, 0xC4] 1 &&
     !verifyChecksum [0x5C, 0x00, 0x20, 0x69, 0x00, 0xC5] 0) = true := by decide

/-- Vectors C4 and C5, and C9. -/
theorem test_classify_boundary :
    classify ref [0x5C, 0x00, 0x20, 0x68, 0x5F] = .invalid ∧
    classify ref [0x5C, 0x00, 0x20, 0x68, 0x5E] = .incomplete ∧
    classify ref [0x5C, 0x00, 0x20, 0x55, 0x00, 0x75] = .valid .other := by decide

/-- Vectors S1 to S4. -/
theorem test_needsDestuff :
    (!needsDestuff ref .broadcast 0x50 && needsDestuff ref .broadcast 0x51 &&
     !needsDestuff ref .readResp 0x06 && needsDestuff ref .readResp 0x07) = true := by decide

/-- Vector S7. -/
theorem test_removeByteStuffing :
    removeByteStuffing ref d7 =
      ([0x5C, 0x00, 0x20, 0x6A, 0x08, 0x4D, 0x9C, 0x5C, 0x5C, 0x00, 0x00, 0x93], 6) := by decide

/-- Vectors D7 and D9: the same value, destuffed at N = 8 and not at N = 6. -/
theorem test_decodeFrame_readResp :
    decodeFrame ref .readResp d7 = .frame .readResp (.regs [⟨40013, 23644⟩]) ∧
    decodeFrame ref .readResp ⟨0x20, 0x6A, [0x5C, 0x00, 0x5C, 0x5C, 0x00, 0x00], 0x10⟩ =
      .frame .readResp (.regs [⟨92, 23644⟩]) := by decide

/-- Vectors D4 and D3. -/
theorem test_decodeFrame_broadcast :
    decodeFrame ref .broadcast ⟨0x20, 0x68, [5, 0, 0, 0x80, 5, 0, 0xFF, 0x7F, 9], 0x48⟩ =
      .frame .broadcast (.regs [⟨5, BitVec.ofInt 32 (-32768)⟩, ⟨5, 32767⟩]) ∧
    decodeFrame ref .broadcast ⟨0x20, 0x68, [0xFF, 0xFF, 1, 0], 0x4D⟩ = .frame .broadcast (.regs []) := by decide

/-- Vectors D14 and D15. -/
theorem test_decodeFrame_aux :
    decodeFrame ref .auxBroadcast d14 =
      .frame .auxBroadcast (.regs [⟨1, 4660⟩, ⟨2, BitVec.ofInt 32 (-2)⟩, ⟨3, 128⟩]) ∧
    decodeFrame ref .auxBroadcast ⟨0x19, 0x60, [0x34, 0x12, 0xFE, 0xFF], 0x5A⟩ = .decodeError .auxBroadcast := by decide

/-- Vectors B4, B6, B11. -/
theorem test_buildWriteRequest :
    buildWriteRequest ref 40013 (BitVec.ofInt 32 (-5)) 2 true =
      [0xC0, 0x6B, 0x06, 0x4D, 0x9C, 0xFB, 0xFF, 0x00, 0x00, 0x78] ∧
    buildWriteRequest ref 1 (BitVec.ofInt 32 (-1)) 1 true =
      [0xC0, 0x6B, 0x06, 0x01, 0x00, 0xFF, 0x00, 0x00, 0x00, 0x53] ∧
    buildWriteRequest ref 1 0x80000000 4 true =
      [0xC0, 0x6B, 0x06, 0x01, 0x00, 0x00, 0x00, 0x00, 0x80, 0x2C] := by decide

/-! ## One step of each instruction -/

/-- Vectors H2 and H3. -/
theorem test_connect :
    after (exec .connect State.reset) (fun t => decide (t.state = .waitStart) && answers .ok .none t &&
      decide (t.statusWord = 0xD0)) = true := by decide
theorem test_connect_busy :
    after (exec .connect (arbIn .waitStart)) (fun t => decide (t.state = .waitStart) && answers .busy .none t)
      = true := by decide

/-- Vectors H17 and H16. -/
theorem test_disconnect :
    after (exec .disconnect { arbIn .waitData with buf := [0x5C, 0x00, 0x20] })
      (fun t => t.cancelReq && decide (t.len = 3) && t.statusWord.getLsbD 5 && answers .ok .none t) = true := by decide
theorem test_disconnect_stopped :
    after (exec .disconnect State.reset) (fun t => !t.cancelReq && answers .ok .none t) = true := by decide

/-- Vectors H11 and H12. -/
theorem test_enqRead :
    after (exec (.enqRead b1) (arbIn .waitStart))
      (fun t => decide (t.rdq = [b1]) && decide (t.statusWord = 0x00010090)) = true := by decide
theorem test_enqRead_length :
    after (exec (.enqRead (List.replicate 11 0)) (arbIn .waitStart))
      (fun t => decide (t.rdq = []) && answers .illegal .none t) = true := by decide

/-- Vector H13, and FIFO order (P4). -/
theorem test_enqWrite_full :
    after (exec (.enqWrite (List.replicate 10 1)) { State.reset with cfg := { ref with qCap := some 1 }, wrq := [b1] })
      (fun t => decide (t.wrq = [b1]) && answers .qfull .none t) = true := by decide
theorem test_enqWrite_order :
    after (exec (.enqWrite [2]) { State.reset with wrq := [[1]] }) (fun t => decide (t.wrq = [[1], [2]])) = true := by
  decide

/-- Vector H7. -/
theorem test_buildRead :
    after (exec (.buildRead 40013) State.reset) (answers .ok (.frame b1)) = true := by decide

/-- Vectors H8 and H10. -/
theorem test_buildWrite :
    after (exec (.buildWrite 40013 0xFFFFFFFB 1 true) State.reset)
      (answers .ok (.frame [0xC0, 0x6B, 0x06, 0x4D, 0x9C, 0xFB, 0xFF, 0x00, 0x00, 0x78])) = true := by decide
theorem test_buildWrite_code_3 :
    after (exec (.buildWrite 0x1234 0x7B 3 false) State.reset) (answers .illegal .none) = true := by decide

/-- Vector H1, and the STATUS of A15: DELIVER with one event waiting. -/
theorem test_status : after (exec .status State.reset) (answers .ok (.word 0x000000C8)) = true := by decide
theorem test_status_deliver :
    after (exec .status { arbIn .deliver with evq := [.frame .writeResp (.ack true)] })
      (answers .ok (.word 0x000001D6)) = true := by decide

/-- P1, and vector H15. -/
theorem test_eventPop :
    after (exec .eventPop { State.reset with evq := [.decodeError .readResp, .transportError .tx] })
      (fun t => decide (t.evq = [.transportError .tx]) && answers .ok (.event (.decodeError .readResp)) t) = true := by
  decide
theorem test_eventPop_empty : after (exec .eventPop State.reset) (answers .empty .none) = true := by decide

/-- Vector H4. -/
theorem test_reservedOp : after (exec (.reservedOp 0) State.reset) (answers .illegal .none) = true := by decide

/-- Vector A1 (its last step) and A18. -/
theorem test_rxReadToken :
    after (step { okWith .readToken tokenR.bytes with state := .readTokenReceived, rdq := [b1, [7]], wrq := [[9]] })
      (fun t => decide (t.txTrace = b1) && decide (t.rdq = [[7]]) && decide (t.wrq = [[9]]) &&
        decide (t.state = .waitStart)) = true := by decide
theorem test_rxReadToken_tx_failure :
    after (exec (.rxReadToken tokenR) { arbIn .readTokenReceived with rdq := [b1], txAnswers := [.fail 2] })
      (fun t => decide (t.txTrace = [0xC0, 0x69]) && decide (t.rdq = []) && decide (t.state = .transportError) &&
        decide (t.pend = some (.transportError .tx))) = true := by decide

/-- P2: the token goes to its state without an ACK, and an idle token is answered by ACK. -/
theorem test_rxWriteToken :
    after (step (okWith .writeToken tokenW.bytes))
      (fun t => decide (t.state = .writeTokenReceived) && decide (t.txTrace = [])) = true := by decide
theorem test_rxWriteToken_idle :
    after (exec (.rxWriteToken tokenW) { arbIn .writeTokenReceived with rdq := [b1] })
      (fun t => decide (t.txTrace = [0x06]) && decide (t.rdq = [b1]) && decide (t.state = .waitStart)) = true := by
  decide

/-- Vector D2. -/
theorem test_rxBroadcast :
    after (step (okWith .broadcast [0x5C, 0x00, 0x20, 0x68, 0x03, 0x01, 0x00, 0x02, 0x48]))
      (fun t => decide (t.pend = some (.frame .broadcast (.regs []))) && decide (t.state = .deliver)) = true := by decide

/-- P1, and vector A17. -/
theorem test_rxReadResp :
    after (step (okWith .readResp d6.bytes))
      (fun t => decide (t.pend = some (.frame .readResp (.regs [⟨40013, BitVec.ofInt 32 (-5)⟩]))) &&
        decide (t.txTrace = [0x06])) = true := by decide
theorem test_rxReadResp_tx_failure :
    after (step { okWith .readResp d6.bytes with txAnswers := [.fail 0] })
      (fun t => decide (t.pend = some (.transportError .tx)) && decide (t.txTrace = []) &&
        decide (t.ecause = some .tx)) = true := by decide

/-- Vectors D12 and A12. -/
theorem test_rxWriteResp :
    after (step (okWith .writeResp [0x5C, 0x00, 0x20, 0x6C, 0x01, 0x02, 0x4F]))
      (fun t => decide (t.pend = some (.frame .writeResp (.ack false)))) = true := by decide
theorem test_rxWriteResp_error :
    after (step (okWith .writeResp [0x5C, 0x00, 0x20, 0x6C, 0x00, 0x4C]))
      (fun t => decide (t.pend = some (.decodeError .writeResp)) && decide (t.txTrace = [0x06])) = true := by decide

/-- Vector D14. -/
theorem test_rxAuxBroadcast :
    after (step (okWith .auxBroadcast d14.bytes))
      (fun t => decide (t.pend = some (.frame .auxBroadcast
        (.regs [⟨1, 4660⟩, ⟨2, BitVec.ofInt 32 (-2)⟩, ⟨3, 128⟩])))) = true := by decide

/-- Vector A11. -/
theorem test_rxOther :
    after (step (okWith .other d16.bytes))
      (fun t => decide (t.pend = some (.frame .other (.raw [0x5C, 0x00, 0x16, 0x60, 0x01, 0xAB, 0xDC]))) &&
        decide (t.txTrace = [0x06])) = true := by decide

/-- P1 and P2: the request answers its token, and leaves its queue. -/
theorem test_txReadReq :
    after (exec (.txReadReq 40013) { arbIn .readTokenReceived with rdq := [b1] })
      (fun t => decide (t.txTrace = b1) && decide (t.rdq = []) && decide (t.state = .waitStart)) = true := by decide
theorem test_txWriteReq :
    after (exec (.txWriteReq 3 7)
        { arbIn .writeTokenReceived with wrq := [[0xC0, 0x6B, 0x06, 0x03, 0x00, 0x07, 0x00, 0x00, 0x00, 0xA9]] })
      (fun t => decide (t.wrq = []) && decide (t.txTrace.length = 10)) = true := by decide

/-- Vectors A2 and A3. -/
theorem test_txAck :
    after (exec .txAck (arbIn .readTokenReceived))
      (fun t => decide (t.txTrace = [0x06]) && decide (t.state = .waitStart)) = true := by decide
theorem test_txNak :
    after (step { arbIn .crcFailure with buf := [0x5C, 0x00, 0x20, 0x69, 0x00, 0xC5] })
      (fun t => decide (t.txTrace = [0x15]) && decide (t.state = .waitStart) && decide (t.evq = [])) = true := by decide

/-! ## ARB's own steps -/

/-- Vectors A4 and A5: a wrong reserved byte drops the frame at once. -/
theorem test_invalid_reserved_byte :
    after (step { arbIn .waitData with buf := [0x5C], rxPort := [.byte 0x01] })
      (fun t => decide (t.state = .waitStart) && decide (t.buf = []) && decide (t.rxPort = [])) = true := by decide

/-- Vector A7. -/
theorem test_longest_frame_is_incomplete :
    after (step { arbIn .waitData with buf := [0x5C, 0x00, 0x20, 0x68], rxPort := [.byte 0x5E, .byte 0x00] })
      (fun t => decide (t.state = .waitData) && decide (t.len = 5) && decide (t.rxPort = [.byte 0x00])) = true := by
  decide

/-- Vector A19. -/
theorem test_cancel :
    after (step { arbIn .waitData with buf := [0x5C, 0x00, 0x20], cancelReq := true, rxPort := [.fail] })
      (fun t => decide (t.state = .stopped) && decide (t.len = 0) && !t.cancelReq && decide (t.rxPort = [.fail]))
      = true := by decide

/-- Vector A16. -/
theorem test_rx_failure :
    after (step { arbIn .waitData with buf := [0x5C, 0x00], rxPort := [.fail] })
      (fun t => decide (t.state = .transportError) && decide (t.pend = some (.transportError .rx)) &&
        decide (t.txTrace = [])) = true := by decide

/-- P6: the report stops the block and absorbs a cancellation (R153). -/
theorem test_report :
    after (step { arbIn .transportError with pend := some (.transportError .tx), ecause := some .tx, cancelReq := true })
      (fun t => decide (t.state = .stopped) && decide (t.evq = [.transportError .tx]) && !t.cancelReq &&
        decide (t.statusWord = 0x000001C8)) = true := by decide

/-- The table's words reach `step`: the HCW of STATUS, and the header of a read token. -/
theorem test_withFetchWord :
    (after (step (State.reset.withFetchWord 4 7)) (answers .ok (.word 0x000000C8)) &&
     after (step (State.reset.withFetchWord 32 0x5C002069))
       (fun t => decide (t.state = .readTokenReceived))) = true := by decide

/-! ## Witnesses: the hypotheses of each statement are met together -/

/-- The host command HCW of CONNECT at the head of the schedule. -/
def hostConnect : State := { State.reset with sched := [.host 0x1 []] }

/-- An input state with one input at the port. -/
def input (st : ArbState) (buf : Bytes) (x : RxInput) : State := { arbIn st with buf := buf, rxPort := [x] }

/-- DELIVER with an event pending and a given EVQ_CAP, one event waiting. -/
def delivering (cap : Option Nat) : State :=
  { arbIn .deliver with cfg := { ref with evqCap := cap }, pend := some (.decodeError .writeResp),
                        evq := [.transportError .rx] }

theorem witness_DecodeOfEncodeIsTheInstruction :
    (Instr.rxReadToken tokenR).wellFormed ref = true ∧ (Instr.rxOther longest).wellFormed small = true ∧
    (Instr.rxReadResp d7).wellFormed ref = true ∧ (Instr.reservedOp 0x87).wellFormed ref = true := by decide

theorem witness_WireWordsHaveOneMeaning :
    decodesTo (.rx d6.bytes) (.rxReadResp d6) = true ∧ decodesTo (.tx b1) (.txReadReq 40013) = true := by decide

theorem witness_HostCommandDispatch :
    (0x81 : Hcw).extractLsb' 7 9 ≠ 0 ∧ (0x8001 : Hcw).extractLsb' 7 9 ≠ 0 ∧ (0x10 : Hcw).extractLsb' 0 4 = 0 ∧
    9 ≤ ((0x9 : Hcw).extractLsb' 0 4).toNat ∧ 9 ≤ ((0xF : Hcw).extractLsb' 0 4).toNat ∧
    (0x7000000000001 : Hcw).extractLsb' 7 9 = 0 ∧ (0xFFFFFFFB9C4D0056 : Hcw).extractLsb' 7 9 = 0 ∧
    (0x1 : Hcw).extractLsb' 0 4 = 1 ∧ (0x2 : Hcw).extractLsb' 0 4 = 2 ∧ (0x3 : Hcw).extractLsb' 0 4 = 3 ∧
    (0x4 : Hcw).extractLsb' 0 4 = 4 ∧ (0x9C4D0005 : Hcw).extractLsb' 0 4 = 5 ∧
    (0xFFFFFFFB9C4D0056 : Hcw).extractLsb' 0 4 = 6 ∧ (0x7 : Hcw).extractLsb' 0 4 = 7 ∧
    (0x8 : Hcw).extractLsb' 0 4 = 8 := by decide

theorem witness_WrittenOutWordsDecode : ref.wf = true ∧ ref.primaryAddr = 0x20 := by decide

theorem witness_FrameIsCompleteAtItsDeclaredLength :
    tokenR.wellFormed ref .readToken = true ∧ longest.wellFormed small .other = true ∧
    0 < 1 ∧ 1 < longest.payload.length + 6 ∧ 19 < longest.payload.length + 6 := by decide

theorem witness_ChecksumIsAnXor : ([0x5C, 0x20] : Bytes).Perm [0x20, 0x5C] := by decide

/-- N = 0, and the two accepted trailing bytes of L1-2. -/
theorem witness_ChecksumAliasOnlyForStartMarker :
    ([0x20, 0x69, 0x00] : Bytes).length = 0 + 3 ∧ ([0x20, 0x6C, 0x01, 0x11] : Bytes).length = 1 + 3 ∧
    xorsum [0x20, 0x6C, 0x01, 0x11] = 0x5C := by decide

theorem witness_ClassifyChecksInOrder :
    (0x5D : Byte) ≠ 0x5C ∧ (0x01 : Byte) ≠ 0x00 ∧ ([] : Bytes).length < 3 ∧ ([0x20, 0x69] : Bytes).length < 3 ∧
    ref.bufCap < (0x5F : Byte).toNat + 6 ∧ (0x5E : Byte).toNat + 6 ≤ ref.bufCap ∧
    ([] : Bytes).length < (0x00 : Byte).toNat + 1 ∧
    (List.replicate 14 (0x00 : Byte)).length < (0x0E : Byte).toNat + 1 ∧
    (0x0E : Byte).toNat + 1 ≤ (List.replicate 15 (0x00 : Byte)).length := by decide

theorem witness_KindRowsAreExclusive : ref.wf = true := by decide

theorem witness_PairCollapseOfRunsAndStuffing :
    ∀ x y : Bytes, ([0x5C] : Bytes) ≠ x ++ [0x5C, 0x5C] ++ y := by
  intro x y h
  have := congrArg List.length h
  simp at this
  omega

/-- Vector D7: its payload is 4D 9C 5C 5C 00 00 stuffed. -/
theorem witness_DestuffingRecoversThePayload :
    d7.payload = stuff [0x4D, 0x9C, 0x5C, 0x5C, 0x00, 0x00] ∧ needsDestuff ref .readResp d7.payload.length = true ∧
    d7.payload.length < 256 ∧ d7.payload.length ≠ 0x5C ∧ ¬ (d7.addr = 0x5C ∧ d7.cmd = 0x5C) := by decide

/-- Vector D8, at N = 7. -/
theorem witness_EffectiveLengthIsDeclaredMinusPairs :
    ∃ f : InFrame, f = ⟨0x20, 0x6A, [0x4D, 0x9C, 0x01, 0x00, 0x00, 0x00, 0xAA], 0x37⟩ ∧ f.payload.length < 256 ∧
      7 ≤ f.payload.length ∧ needsDestuff ref .readResp f.payload.length = true := ⟨_, rfl, by decide⟩

theorem witness_DestuffThresholdPerKind : ref.tBroadcast = 0x50 ∧ ref.tReadResp = 0x06 ∧ ref.tAux = 0x18 := by decide

theorem witness_BroadcastKeepsEveryRecordButPadding :
    ([] : Bytes).length < 4 ∧ ([1, 2, 3] : Bytes).length < 4 := by decide

theorem witness_FixedOffsetDecodersReadTheirBytes :
    ([] : Bytes).length < 6 ∧ ([1, 2, 3, 4, 5] : Bytes).length < 6 := by decide

/-- Vector D14: the last field ends at the last byte. -/
theorem witness_AuxiliaryDecodeReadsOnlyItsFields :
    ([0xFF] : Bytes).length = 1 ∧ ([0x00, 0x80] : Bytes).length = 2 ∧ ([1, 2, 3, 4] : Bytes).length = 4 ∧
    ∀ fd ∈ ref.auxFields, fd.off + fd.w ≤ d14.payload.length := by decide

/-- Vectors D6, D10, D14, D15, D11 and D13. -/
theorem witness_DecodeFrameDispatchesOnTheKind :
    decodeReadResponse (effectivePayload ref .readResp d6) = some [⟨40013, BitVec.ofInt 32 (-5)⟩] ∧
    decodeReadResponse (effectivePayload ref .readResp ⟨0x20, 0x6A, [1, 0], 0x49⟩) = none ∧
    decodeAuxBroadcast ref (effectivePayload ref .auxBroadcast d14) =
      some [⟨1, 4660⟩, ⟨2, BitVec.ofInt 32 (-2)⟩, ⟨3, 128⟩] ∧
    decodeAuxBroadcast ref (effectivePayload ref .auxBroadcast ⟨0x19, 0x60, [0x34, 0x12, 0xFE, 0xFF], 0x5A⟩) = none ∧
    decodeWriteAck (effectivePayload ref .writeResp ⟨0x20, 0x6C, [1], 0x4C⟩) = some true ∧
    decodeWriteAck (effectivePayload ref .writeResp ⟨0x20, 0x6C, [], 0x4C⟩) = none := by decide

theorem witness_BuiltRequestsHaveTheirLayout :
    (1 = 1 ∨ 1 = 2 ∨ 1 = 4) ∧ (2 = 1 ∨ 2 = 2 ∨ 2 = 4) ∧ (4 = 1 ∨ 4 = 2 ∨ 4 = 4) := by decide

theorem witness_ConnectOnlyFromStopped :
    State.reset.state = .stopped ∧ (arbIn .transportError).state ≠ .stopped := by decide

theorem witness_DisconnectOnlySetsCancelReq :
    State.reset.state = .stopped ∧ (arbIn .waitStart).state ≠ .stopped := by decide

/-- Lengths 0, 1, FRAME_MAX and FRAME_MAX + 1; a queue at Q_CAP = 1, one below it, and Q_CAP = ∞. -/
theorem witness_EnqueueAppendsOrRefuses :
    (([] : Bytes).length < 1 ∧ ref.frameMax < (List.replicate 11 (0 : Byte)).length) ∧
    (1 ≤ ([7] : Bytes).length ∧ ([7] : Bytes).length ≤ ref.frameMax) ∧
    (1 ≤ (List.replicate 10 (0 : Byte)).length ∧ (List.replicate 10 (0 : Byte)).length ≤ ref.frameMax) ∧
    (let s : State := { State.reset with cfg := { ref with qCap := some 1 }, rdq := [b1] }
     s.cfg.qCap = some s.rdq.length ∧ s.cfg.qCap = some 1 ∧ s.wrq.length < 1) ∧
    (let s : State := { State.reset with cfg := { ref with qCap := some 1 }, wrq := [b1] }
     s.cfg.qCap = some s.wrq.length ∧ s.rdq.length < 1) ∧
    State.reset.cfg.qCap = none := by decide

theorem witness_EventPopTakesTheHead :
    State.reset.evq = [] ∧ (delivering none).evq = .transportError .rx :: [] := by decide

theorem witness_ErrorStatusChangesNothing :
    Instr.isHost .connect = true ∧
    after (exec .connect (arbIn .waitStart)) (fun t => answers .busy .none t && decide (HostStatus.busy ≠ .ok)) = true := by
  decide

theorem witness_HostCommandFrame :
    Instr.isHost .eventPop = true ∧ after (exec .eventPop (delivering none)) (fun _ => true) = true ∧
    Instr.eventPop ≠ .connect ∧ Instr.eventPop ≠ .disconnect ∧ Instr.connect ≠ .eventPop ∧
    after (exec .connect State.reset) (fun _ => true) = true := by decide

theorem witness_TokensServeOneFrameOrAck :
    (arbIn .okMessage).state = .okMessage ∧ (arbIn .readTokenReceived).nextTxFails = false ∧
    (arbIn .readTokenReceived).state = .readTokenReceived ∧ (arbIn .writeTokenReceived).state = .writeTokenReceived := by
  decide

theorem witness_DataFramesAreAckedAndDecoded :
    (okWith .readResp d6.bytes).state = .okMessage ∧ (okWith .readResp d6.bytes).nextTxFails = false := by decide

/-- Counts 0 and more than the sequence has. -/
theorem witness_TxFailureEntersTransportError :
    ({ arbIn .crcFailure with txAnswers := [.fail 0] } : State).txAnswers = .fail 0 :: [] ∧
    ({ arbIn .okMessage with txAnswers := [.fail 9, .ok] } : State).txAnswers = .fail 9 :: [.ok] ∧
    (arbIn .crcFailure).state = .crcFailure ∧ (arbIn .okMessage).state = .okMessage := by decide

theorem witness_NakAnswersAChecksumFailure :
    (arbIn .crcFailure).state = .crcFailure ∧ (arbIn .crcFailure).nextTxFails = false := by decide

theorem witness_AckAnswersDataAndIdleTokens :
    (okWith .readResp d6.bytes).nextTxFails = false ∧ (okWith .readResp d6.bytes).state = .okMessage ∧
    (okWith .readResp d6.bytes).k = some DataKind.readResp.kind ∧
    InFrame.parse (okWith .readResp d6.bytes).buf = some d6 ∧
    (arbIn .readTokenReceived).rdq.headD [0x06] = [0x06] ∧
    ({ arbIn .writeTokenReceived with wrq := [[0x06]] } : State).wrq.headD [0x06] = [0x06] := by decide

theorem witness_QueuedRequestsGoOutVerbatim :
    ({ arbIn .readTokenReceived with rdq := [b1] } : State).nextTxFails = false ∧
    ({ arbIn .readTokenReceived with rdq := [b1] } : State).rdq = buildReadRequest ref 40013 :: [] ∧
    ({ arbIn .writeTokenReceived with wrq := [buildWriteRequest ref 3 7 4 true, b1] } : State).wrq =
      buildWriteRequest ref 3 7 4 true :: [b1] := by decide

theorem witness_OutboundWordsAreTheStepsTheyAnswer :
    encode ref .txAck = .tx [0x06] ∧ encode ref (.txReadReq 40013) = .tx b1 ∧
    ({ arbIn .readTokenReceived with rdq := [b1] } : State).rdq.headD [0x06] = b1 ∧
    (arbIn .writeTokenReceived).wrq.headD [0x06] = [0x06] ∧ InFrame.parse d6.bytes = some d6 := by decide

theorem witness_NothingIsSentUnprompted :
    (arbIn .waitStart).state ≠ .okMessage ∧ (arbIn .waitStart).state ≠ .readTokenReceived ∧
    (arbIn .waitStart).state ≠ .writeTokenReceived ∧ (arbIn .waitStart).txWord ≠ some [0x06] ∧
    (arbIn .crcFailure).txWord ≠ some [0x06] := by decide

theorem witness_FrameAndWordSteps :
    Instr.isHost .txNak = false ∧ after (exec .txNak (arbIn .crcFailure)) (fun _ => true) = true ∧
    Instr.isHost (.rxReadResp d6) = false ∧
    after (exec (.rxReadResp d6) (okWith .readResp d6.bytes)) (fun _ => true) = true := by decide

theorem witness_StepRunsTheHostCommand :
    hostConnect.cfg.wf = true ∧ hostConnect.sched = .host 0x1 [] :: [] ∧
    decodesTo (.host 0x1 []) .connect = true := by decide

/-- A frame in `buf`, a bad one, and both token states, one with a frame that is no encoding. -/
theorem witness_StepRunsArbsInstruction :
    (okWith .readResp d6.bytes).inv = true ∧ (okWith .readResp d6.bytes).sched = .arb :: [] ∧
    ({ arbIn .crcFailure with buf := [0x5C, 0x00, 0x20, 0x69, 0x00, 0xC5] } : State).inv = true ∧
    ({ okWith .readToken tokenR.bytes with state := .readTokenReceived, rdq := [b1] } : State).inv = true ∧
    decodesTo (.tx ([b1].headD [0x06])) (.txReadReq 40013) = true ∧
    ({ okWith .writeToken tokenW.bytes with state := .writeTokenReceived, wrq := [[1, 2]] } : State).inv = true := by
  decide

theorem witness_CancelWinsInAnInputState :
    (let s : State := { input .waitData [0x5C] (.byte 0x00) with cancelReq := true }
     s.cfg.wf = true ∧ s.sched = .arb :: [] ∧ s.cancelReq = true ∧ s.state = .waitData) ∧
    ({ arbIn .waitStart with cancelReq := true } : State).state = .waitStart := by decide

theorem witness_WaitStartHuntsForTheMarker :
    (let s := input .waitStart [] (.byte 0x5C)
     s.cfg.wf = true ∧ s.sched = .arb :: [] ∧ s.cancelReq = false ∧ s.state = .waitStart ∧
       s.rxPort = .byte 0x5C :: []) ∧
    (input .waitStart [] (.byte 0xC0)).rxPort = .byte 0xC0 :: [] ∧ (0xC0 : Byte) ≠ 0x5C := by decide

/-- One witness for each verdict. -/
theorem witness_WaitDataAppendsAndClassifies :
    (let s := input .waitData [0x5C] (.byte 0x00)
     s.inv = true ∧ s.sched = .arb :: [] ∧ s.cancelReq = false ∧ s.state = .waitData ∧
       s.rxPort = .byte 0x00 :: [] ∧ classify s.cfg (s.buf ++ [0x00]) = .incomplete) ∧
    (let s := input .waitData [0x5C] (.byte 0x01)
     s.inv = true ∧ classify s.cfg (s.buf ++ [0x01]) = .invalid) ∧
    (let s := input .waitData [0x5C, 0x00, 0x20, 0x69, 0x00] (.byte 0xC5)
     s.inv = true ∧ classify s.cfg (s.buf ++ [0xC5]) = .checksumFailure) ∧
    (let s := input .waitData [0x5C, 0x00, 0x20, 0x69, 0x00] (.byte 0x49)
     s.inv = true ∧ classify s.cfg (s.buf ++ [0x49]) = .valid .readToken) := by decide

theorem witness_RxFailureEntersTransportError :
    (let s := input .waitData [0x5C, 0x00] .fail
     s.cfg.wf = true ∧ s.sched = .arb :: [] ∧ s.cancelReq = false ∧ s.state = .waitData ∧ s.rxPort = .fail :: []) ∧
    (input .waitStart [] .fail).state = .waitStart := by decide

/-- EVQ_CAP = 1 is full with one event, 2 has room, and so has ∞. -/
theorem witness_DeliverWaitsForRoom :
    ((delivering (some 1)).cfg.wf = true ∧ (delivering (some 1)).sched = .arb :: [] ∧
      (delivering (some 1)).state = .deliver ∧ (delivering (some 1)).pend = some (.decodeError .writeResp) ∧
      (delivering (some 1)).cfg.evqCap = some (delivering (some 1)).evq.length) ∧
    ((delivering (some 2)).cfg.evqCap = some 2 ∧ (delivering (some 2)).evq.length < 2) ∧
    (delivering none).cfg.evqCap = none := by decide

theorem witness_TransportErrorIsReportedOnce :
    (let s : State := { delivering (some 1) with state := .transportError, pend := some (.transportError .tx) }
     s.cfg.wf = true ∧ s.sched = .arb :: [] ∧ s.state = .transportError ∧ s.pend = some (.transportError .tx) ∧
       s.cfg.evqCap = some s.evq.length) ∧
    (let s : State := { delivering (some 2) with state := .transportError, pend := some (.transportError .tx) }
     s.cfg.evqCap = some 2 ∧ s.evq.length < 2) := by decide

/-- A waiting ARB, a stopped one, and a moving one. -/
theorem witness_ArbMovesExactlyWhenEnabled :
    (arbIn .waitStart).inv = true ∧ (arbIn .waitStart).sched = .arb :: [] ∧ (arbIn .stopped).inv = true ∧
    (input .waitStart [] (.byte 0x5C)).inv = true := by decide

theorem witness_BadConfigurationIsRefused :
    (¬ { ref with cmdBroadcast := 0x69 }.inboundCmds.Nodup) ∧
    { ref with primaryAddr := 0x19 }.auxAddr = { ref with primaryAddr := 0x19 }.primaryAddr ∧
    (∃ fd ∈ { ref with auxFields := [⟨1, 0, 3, true⟩] }.auxFields, fd.w ≠ 1 ∧ fd.w ≠ 2 ∧ fd.w ≠ 4) ∧
    { ref with bufCap := 5 }.bufCap < 6 ∧ { ref with frameMax := 9 }.frameMax < 10 ∧
    { ref with evqCap := some 0 }.evqCap = some 0 := by decide

theorem witness_InvariantHoldsAtReset : ref.wf = true ∧ { ref with evqCap := some 1, qCap := some 0 }.wf = true := by
  decide

/-- Also the witness of NoRunEverStops: states that meet the invariant in every arbiter state. -/
theorem witness_EveryStepKeepsTheInvariant :
    State.reset.inv = true ∧ (input .waitStart [] .fail).inv = true ∧
    (input .waitData [0x5C, 0x00, 0x20] (.byte 0x69)).inv = true ∧ ({ okWith .other longest.bytes with cfg := small } : State).inv = true ∧
    ({ arbIn .crcFailure with buf := [0x5C, 0x00, 0x20, 0x69, 0x00, 0xC5] } : State).inv = true ∧
    ({ okWith .readToken tokenR.bytes with state := .readTokenReceived } : State).inv = true ∧
    ({ okWith .writeToken tokenW.bytes with state := .writeTokenReceived } : State).inv = true ∧
    ({ okWith .other d16.bytes with state := .deliver, pend := some (.frame .other (.raw d16.bytes)) } : State).inv
      = true ∧
    ({ arbIn .transportError with pend := some (.transportError .rx), ecause := some .rx } : State).inv = true := by
  decide

theorem witness_NoRunEverStops : State.reset.inv = true := by decide

theorem witness_ArbStepsFollowTheTransitionTable :
    (okWith .readResp d6.bytes).inv = true ∧ (okWith .readResp d6.bytes).sched = .arb :: [] ∧
    ({ okWith .readResp d6.bytes with sched := [] } : State).arbEnabled = true ∧
    after (step (okWith .readResp d6.bytes)) (fun _ => true) = true := by decide

theorem witness_ConfigurationNeverChanges : after (Sys2Proof.core.run 1 hostConnect) (fun _ => true) = true := by
  decide

theorem witness_TransmissionDiscipline :
    after (step (okWith .readResp d6.bytes)) (fun t => decide (t.txTrace ≠ [])) = true := by decide

/-- Each queue's enqueue, and its service with DEV answering TxOk and TxFail. -/
theorem witness_QueuesAreFifoWithOneConsumer :
    after (step { State.reset with sched := [.host 0x3 b1] }) (fun t => decide (t.rdq = [b1])) = true ∧
    after (step { State.reset with sched := [.host 0x4 b1] }) (fun t => decide (t.wrq = [b1])) = true ∧
    after (step { okWith .readToken tokenR.bytes with state := .readTokenReceived, rdq := [b1] })
      (fun t => decide (t.rdq = [] ∧ t.txTrace = b1)) = true ∧
    after (step { okWith .writeToken tokenW.bytes with state := .writeTokenReceived, wrq := [b1], txAnswers := [.fail 2] })
      (fun t => decide (t.wrq = [] ∧ t.txTrace = b1.take 2)) = true := by decide

/-- A step out of DELIVER, one out of TRANSPORT_ERROR, one that holds, and LSN's pop. -/
theorem witness_EventsAreDeliveredOnceInOrder :
    after (step (delivering none)) (fun t => decide (t.evq.length = 2)) = true ∧
    after (step { delivering none with state := .transportError, pend := some (.transportError .tx) })
      (fun t => decide (t.evq.length = 2)) = true ∧
    after (step (delivering (some 1))) (fun t => decide (t.evq.length = 1 ∧ t.state = .deliver)) = true ∧
    after (step { delivering none with sched := [.host 0x8 []] }) (fun t => decide (t.popped.length = 1)) = true := by
  decide

theorem witness_OnlyConnectLeavesStopped :
    hostConnect.state = .stopped ∧ after (step hostConnect) (fun t => decide (t.state ≠ .stopped)) = true := by decide

/-- ARB's consumption, and DEV's offer and withdrawal. -/
theorem witness_RxIsConsumedOnlyInInputStates :
    after (step (input .waitStart [] (.byte 0x5C))) (fun t => decide (t.rxPort = [])) = true ∧
    after (step { input .waitStart [] (.byte 0x5C) with sched := [.dev (.offer .fail)] })
      (fun t => decide (t.rxPort = [.byte 0x5C, .fail])) = true ∧
    after (step { input .waitStart [] (.byte 0x5C) with sched := [.dev .withdraw] })
      (fun t => decide (t.rxPort = [])) = true := by decide

/-- One witness for each error class; each state's next step answers a next state. -/
theorem witness_EachErrorClassIsHandledAsStated :
    (let s := input .waitStart [] (.byte 0xAA)
     s.inv = true ∧ s.sched = .arb :: [] ∧ s.errorDetected = some .framingNoise ∧ after (step s) (fun _ => true) = true) ∧
    (let s := input .waitData [0x5C, 0x00, 0x20, 0x69, 0x00] (.byte 0xC5)
     s.inv = true ∧ s.errorDetected = some .checksumFailure ∧ after (step s) (fun _ => true) = true) ∧
    (let s := okWith .writeResp [0x5C, 0x00, 0x20, 0x6C, 0x00, 0x4C]
     s.inv = true ∧ s.errorDetected = some .decodeRange ∧ after (step s) (fun _ => true) = true) ∧
    (let s := input .waitStart [] .fail
     s.inv = true ∧ s.errorDetected = some .transport ∧ after (step s) (fun _ => true) = true) := by decide

theorem witness_TransientChainsFinish :
    (let s : State := { okWith .readResp d6.bytes with sched := [.arb, .arb, .arb, .arb] }
     s.inv = true ∧ s.evqRoom = true ∧ s.sched = [.arb, .arb, .arb, .arb] ∧ s.state ≠ .waitStart ∧
       s.state ≠ .waitData ∧ s.state ≠ .stopped) := by decide

end Sys2Proof.Tests
end

section
/-! PROOFS. The family 00_scope.md: little-endian fields (R10, R51) and the configuration checks (R8). -/

namespace Sys2Proof

/-! ## Little-endian fields (R10, R51) -/

/-- Reading back the low `n` bytes of `v` gives `v` modulo `256^n`: `leNat` inverts `bytesLe`. -/
theorem leNat_bytesLe {w : Nat} (v : BitVec w) (n : Nat) : leNat (bytesLe v n) = v.toNat % 2 ^ (8 * n) := by
  induction n generalizing v with
  | zero => simp [bytesLe, leNat, Nat.mod_one]
  | succ n ih =>
    calc leNat (bytesLe v (n + 1))
        = (v.setWidth 8).toNat + 2 ^ 8 * leNat (bytesLe (v >>> 8) n) := rfl
      _ = v.toNat % 2 ^ 8 + 2 ^ 8 * (v.toNat / 2 ^ 8 % 2 ^ (8 * n)) := by
        rw [ih, BitVec.toNat_setWidth, BitVec.toNat_ushiftRight, Nat.shiftRight_eq_div_pow]
      _ = v.toNat % (2 ^ 8 * 2 ^ (8 * n)) := (Nat.mod_mul).symm
      _ = v.toNat % 2 ^ (8 * (n + 1)) := by rw [← Nat.pow_add, Nat.mul_succ, Nat.add_comm 8]

/-- Settles O6: the general reading by induction on the number of bytes, the two fixed ones by the append law. -/
theorem fieldsAreLittleEndian : Obligations.FieldsAreLittleEndian :=
  ⟨fun _ n v => ⟨bytesLe_length v n, leNat_bytesLe v n⟩, le16_toNat, le32_toNat⟩

/-! ## Well-formed configurations (R8) -/

namespace Config

theorem distinct_iff_nodup (l : List Byte) : distinct l = true ↔ l.Nodup := by
  induction l with
  | nil => simp [distinct]
  | cons b rest ih => simp [distinct, ih]

theorem evqCapOk_iff (c : Config) : c.evqCapOk = true ↔ c.evqCap ≠ some 0 := by
  unfold evqCapOk
  split
  next h => simp [h]
  next n h => simp [h, Nat.one_le_iff_ne_zero]

/-- The check `wf` as propositions: (a) to (f) of R8, then the types R7 gives `AUX_ADDR` and `AUX_FIELDS`. -/
theorem wf_iff (c : Config) : c.wf = true ↔
    c.inboundCmds.Nodup ∧ c.auxAddr ≠ c.primaryAddr ∧ (∀ fd ∈ c.auxFields, fd.w = 1 ∨ fd.w = 2 ∨ fd.w = 4) ∧
    6 ≤ c.bufCap ∧ 10 ≤ c.frameMax ∧ c.evqCap ≠ some 0 ∧
    (c.auxAddr = 0x16 ∨ c.auxAddr = 0x19) ∧ c.auxFields.length ≤ 3 := by
  simp only [wf, Bool.and_eq_true, Bool.or_eq_true, List.all_eq_true, decide_eq_true_eq, beq_iff_eq,
    evqCapOk_iff, distinct_iff_nodup, or_assoc]
  tauto

end Config

/-- Settles O47: each broken check contradicts its part of `Config.wf_iff`, and `step` refuses what is not `wf`. -/
theorem badConfigurationIsRefused : Obligations.BadConfigurationIsRefused := by
  intro s hbad
  apply Machine.step_badConfig
  rw [Bool.eq_false_iff]
  intro hwf
  obtain ⟨hcmds, haddr, hfields, hbuf, hframe, hevq, -, -⟩ := s.cfg.wf_iff.mp hwf
  rcases hbad with h | h | ⟨fd, hfd, h1, h2, h4⟩ | h | h | h
  · exact h hcmds
  · exact haddr h
  · rcases hfields fd hfd with hw | hw | hw
    · exact h1 hw
    · exact h2 hw
    · exact h4 hw
  · exact absurd hbuf (Nat.not_le.mpr h)
  · exact absurd hframe (Nat.not_le.mpr h)
  · exact hevq h

end Sys2Proof
end

section
/-! PROOFS. The family 10_state.md: the invariant of every reachable state (R22 to R29, R35), the configuration
(R20), and the two queues (R28). What ARB's move can do is said once, as the transition table of R157. -/

namespace Sys2Proof.Machine

open Sys2Proof

namespace State

/-! ## The invariant, by arbiter state -/

theorem inv_iff (s : State) : s.inv = true ↔ s.cfg.wf = true ∧ s.storageWf = true ∧ s.latchesWf = true := by
  simp [inv, and_assoc]

theorem noEvent_iff (s : State) : s.noEvent = true ↔ s.pend = none ∧ s.ecause = none := by
  simp [noEvent]

theorem frameIs_iff (s : State) (v : Verdict) :
    s.frameIs v = true ↔ classify s.cfg s.buf = v ∧ (InFrame.parse s.buf).isSome = true := by
  simp [frameIs]

theorem okWf_iff (s : State) : s.okWf = true ↔ ∃ kd, s.k = some kd ∧ s.frameIs (.valid kd) = true := by
  unfold okWf
  cases s.k <;> simp

theorem errorWf_iff (s : State) :
    s.errorWf = true ↔ ∃ cause, s.ecause = some cause ∧ s.pend = some (.transportError cause) := by
  unfold errorWf
  cases s.ecause <;> simp

/-- DELIVER from a latched data kind: the frame in `buf` and its decoded event. -/
theorem deliverWf_of_data {s : State} {d : DataKind} {f : InFrame} (hk : s.k = some d.kind)
    (hp : InFrame.parse s.buf = some f) (hf : s.frameIs (.valid d.kind) = true)
    (he : s.pend = some (decodeFrame s.cfg d f)) : s.deliverWf = true := by
  simp [deliverWf, hk, hp, hf, he]

theorem pend_of_deliverWf {s : State} (h : s.deliverWf = true) : ∃ e, s.pend = some e := by
  unfold deliverWf at h
  split at h
  · simp only [Bool.and_eq_true, decide_eq_true_eq] at h
    exact ⟨_, h.2⟩
  · cases h

theorem latchesWf_waitStart {s : State} (h : s.state = .waitStart) :
    s.latchesWf = true ↔ s.buf = [] ∧ s.k = none ∧ s.noEvent = true := by
  simp [latchesWf, h, and_assoc]

theorem latchesWf_waitData {s : State} (h : s.state = .waitData) :
    s.latchesWf = true ↔ s.buf ≠ [] ∧ classify s.cfg s.buf = .incomplete ∧ s.k = none ∧ s.noEvent = true := by
  simp [latchesWf, h, and_assoc]

theorem latchesWf_okMessage {s : State} (h : s.state = .okMessage) :
    s.latchesWf = true ↔ s.okWf = true ∧ s.noEvent = true := by
  simp [latchesWf, h]

theorem latchesWf_crcFailure {s : State} (h : s.state = .crcFailure) :
    s.latchesWf = true ↔ s.frameIs .checksumFailure = true ∧ s.k = none ∧ s.noEvent = true := by
  simp [latchesWf, h, and_assoc]

theorem latchesWf_readTokenReceived {s : State} (h : s.state = .readTokenReceived) :
    s.latchesWf = true ↔ s.frameIs (.valid .readToken) = true ∧ s.k = some .readToken ∧ s.noEvent = true := by
  simp [latchesWf, h, and_assoc]

theorem latchesWf_writeTokenReceived {s : State} (h : s.state = .writeTokenReceived) :
    s.latchesWf = true ↔ s.frameIs (.valid .writeToken) = true ∧ s.k = some .writeToken ∧ s.noEvent = true := by
  simp [latchesWf, h, and_assoc]

theorem latchesWf_deliver {s : State} (h : s.state = .deliver) :
    s.latchesWf = true ↔ s.deliverWf = true ∧ s.ecause = none := by
  simp [latchesWf, h]

theorem latchesWf_transportError {s : State} (h : s.state = .transportError) :
    s.latchesWf = true ↔ s.buf = [] ∧ s.k = none ∧ s.errorWf = true := by
  simp [latchesWf, h, and_assoc]

theorem latchesWf_stopped {s : State} (h : s.state = .stopped) :
    s.latchesWf = true ↔ s.buf = [] ∧ s.k = none ∧ s.noEvent = true ∧ s.cancelReq = false := by
  simp [latchesWf, h, and_assoc]

/-! ## Entering a state establishes its latches -/

theorem inv_enterWaitStart {s : State} (hc : s.cfg.wf = true) (hs : s.storageWf = true) :
    (enterWaitStart s).inv = true :=
  (inv_iff _).mpr ⟨hc, storageWf_enterWaitStart hs, rfl⟩

theorem inv_enterStopped {s : State} (hc : s.cfg.wf = true) (hs : s.storageWf = true) :
    (enterStopped s).inv = true :=
  (inv_iff _).mpr ⟨hc, storageWf_enterStopped hs, rfl⟩

theorem inv_enterTransportError {s : State} (cause : Cause) (hc : s.cfg.wf = true) (hs : s.storageWf = true) :
    (enterTransportError cause s).inv = true := by
  refine (inv_iff _).mpr ⟨hc, storageWf_enterTransportError cause hs, ?_⟩
  rw [latchesWf_transportError rfl, errorWf_iff]
  exact ⟨rfl, rfl, cause, rfl, rfl⟩

theorem inv_sentFail {s : State} (hc : s.cfg.wf = true) (hs : s.storageWf = true) (w : Bytes) (n : Nat) :
    (sentFail w n s).inv = true :=
  inv_enterTransportError .tx
    (s := { s with txAnswers := s.txAnswers.tail, txTrace := s.txTrace ++ w.take n }) hc hs

/-! ## Removing a queue's head or an event keeps the storage within its bounds, R28 and R29 -/

theorem storageWf_rdq_tail {s : State} (hs : s.storageWf = true) :
    ({ s with rdq := s.rdq.tail } : State).storageWf = true := by
  rw [storageWf_iff] at hs ⊢
  obtain ⟨hb, hr, hw, he⟩ := hs
  exact ⟨hb, queueWf_tail hr, hw, he⟩

theorem storageWf_wrq_tail {s : State} (hs : s.storageWf = true) :
    ({ s with wrq := s.wrq.tail } : State).storageWf = true := by
  rw [storageWf_iff] at hs ⊢
  obtain ⟨hb, hr, hw, he⟩ := hs
  exact ⟨hb, hr, queueWf_tail hw, he⟩

theorem storageWf_pop {s : State} {e : Event} {q : List Event} (he : s.evq = e :: q) (hs : s.storageWf = true) :
    ({ s with evq := q, popped := s.popped ++ [e] } : State).storageWf = true := by
  rw [storageWf_iff] at hs ⊢
  obtain ⟨hb, hr, hw, hev⟩ := hs
  exact ⟨hb, hr, hw, withinCap_mono (by simp [he]) hev⟩

/-! ## What reads no latch keeps the invariant -/

@[simp] theorem inv_respond (st : HostStatus) (d : RespData) (s : State) : (respond st d s).inv = s.inv := rfl

theorem inv_devStep (d : DevMove) (s : State) : (devStep d s).inv = s.inv := by
  cases d <;> rfl

/-- `cancel_req` is constrained in STOPPED only. -/
theorem inv_cancel {s : State} (hns : s.state ≠ .stopped) : ({ s with cancelReq := true } : State).inv = s.inv := by
  simp only [inv, latchesWf]
  cases h : s.state
  case stopped => exact absurd h hns
  all_goals rfl

end State

/-! ## What ARB's move can do: a row of R157's table, or nothing where no step is enabled -/

/-- `t` is what ARB's move makes of `s`: a row of R157, or `s` itself where R140 enables no step. -/
def ArbResult (s t : State) : Prop := Transition s t ∨ (s.arbEnabled = false ∧ t = s)

theorem takeByte_waitStart {s : State} (h : s.state = .waitStart) (b : Byte) :
    takeByte b s = .next (State.startByte b s) := by
  simp [takeByte, h]

theorem takeByte_waitData {s : State} (h : s.state = .waitData) (b : Byte) : takeByte b s = dataByte b s := by
  simp [takeByte, h]

theorem startByte_transition {s : State} {b : Byte} {rest : List RxInput} (hst : s.state = .waitStart)
    (hc : s.cancelReq = false) (hp : s.rxPort = .byte b :: rest) :
    Transition s (State.startByte b { s with rxPort := rest }) := by
  unfold State.startByte
  split
  next hb => subst hb; exact .startMarker rest hst hc hp
  next hb => exact .discard b rest hst hc hp hb

theorem dataByte_transition {s t : State} {b : Byte} {rest : List RxInput} (hst : s.state = .waitData)
    (hc : s.cancelReq = false) (hp : s.rxPort = .byte b :: rest)
    (h : dataByte b { s with rxPort := rest } = .next t) : Transition s t := by
  by_cases hl : s.buf.length < s.cfg.bufCap
  · rw [dataByte_eq (by exact hl)] at h
    cases h
    cases hv : classify s.cfg (s.buf ++ [b]) with
    | incomplete => exact .incomplete b rest hst hc hp hv
    | invalid => exact .invalid b rest hst hc hp hv
    | checksumFailure => exact .badChecksum b rest hst hc hp hv
    | valid kd => exact .valid b rest kd hst hc hp hv
  · simp [dataByte, State.appendByte, hl] at h

theorem takeByte_transition {s t : State} {b : Byte} {rest : List RxInput}
    (hst : s.state = .waitStart ∨ s.state = .waitData) (hc : s.cancelReq = false) (hp : s.rxPort = .byte b :: rest)
    (h : takeByte b { s with rxPort := rest } = .next t) : Transition s t := by
  rcases hst with hst | hst
  · rw [takeByte_waitStart (by exact hst)] at h
    cases h
    exact startByte_transition hst hc hp
  · rw [takeByte_waitData (by exact hst)] at h
    exact dataByte_transition hst hc hp h

theorem inputStep_result {s t : State} (hst : s.state = .waitStart ∨ s.state = .waitData)
    (h : inputStep s = .next t) : ArbResult s t := by
  rcases inputStep_cases s with ⟨hc, he⟩ | ⟨hc, hp, he⟩ | ⟨hc, rest, hp, he⟩ | ⟨hc, b, rest, hp, he⟩ <;>
    rw [he] at h
  · cases h; exact .inl (.cancel hst hc)
  · cases h
    refine .inr ⟨?_, rfl⟩
    rcases hst with hst | hst <;> simp [State.arbEnabled, hst, hc, hp]
  · cases h; exact .inl (.rxFail rest hst hc hp)
  · exact .inl (takeByte_transition hst hc hp h)

/-- R149 and R153, given the row that `done` follows. -/
theorem emitPending_result {s t : State} {done : State → State} (hen : s.arbEnabled = s.evqRoom)
    (hrow : ∀ e, s.evqRoom = true → s.pend = some e → Transition s (done (State.emit e s)))
    (h : emitPending done s = .next t) : ArbResult s t := by
  rcases emitPending_cases done s with ⟨hr, he⟩ | ⟨hr, e, hp, he⟩ | ⟨-, -, he⟩ <;> rw [he] at h
  · cases h; exact .inr ⟨hen.trans hr, rfl⟩
  · cases h; exact .inl (hrow e hr hp)
  · cases h

/-- A TX write, R54, given the rows for DEV's two answers. -/
theorem transmit_transition {s u : State} {w : Bytes} {done : State → State}
    (hok : u.nextTxFails = false →
      Transition s (done { u with txAnswers := u.txAnswers.tail, txTrace := u.txTrace ++ w }))
    (hfail : ∀ n rest, u.txAnswers = .fail n :: rest → Transition s (State.enterTransportError .tx
      { u with txAnswers := u.txAnswers.tail, txTrace := u.txTrace ++ w.take n })) :
    Transition s (State.transmit w done u) := by
  rcases State.transmit_cases u w done with ⟨ha, he⟩ | ⟨n, rest, ha, he⟩
  · exact he ▸ hok ha
  · have hf := hfail n rest ha
    rw [ha, List.tail_cons] at hf
    exact he ▸ hf

theorem sendNak_transition {s : State} (hst : s.state = .crcFailure) : Transition s s.sendNak :=
  transmit_transition (.nakOk hst) fun n rest ha => .nakFail n rest hst ha

theorem ackAndDecode_transition {s : State} {d : DataKind} {f : InFrame} (hst : s.state = .okMessage)
    (hk : s.k = some d.kind) (hf : InFrame.parse s.buf = some f) : Transition s (s.ackAndDecode d f) :=
  transmit_transition (.dataOk d f hst hk hf) fun n rest ha => .dataFail d n rest hst hk ha

theorem serveReadToken_transition {s : State} (hst : s.state = .readTokenReceived) :
    Transition s s.serveReadToken := by
  unfold State.serveReadToken
  rw [State.tokenAnswer_eq]
  exact transmit_transition (.serveReadOk hst) fun n rest ha => .serveReadFail n rest hst ha

theorem serveWriteToken_transition {s : State} (hst : s.state = .writeTokenReceived) :
    Transition s s.serveWriteToken := by
  unfold State.serveWriteToken
  rw [State.tokenAnswer_eq]
  exact transmit_transition (.serveWriteOk hst) fun n rest ha => .serveWriteFail n rest hst ha

theorem arbMove_ok_transition {s t : State} (hst : s.state = .okMessage) (h : arbMove s = .next t) :
    Transition s t := by
  rcases arbMove_ok_cases hst with ⟨hk, -, he⟩ | ⟨hk, -, he⟩ | ⟨d, f, hk, hf, he⟩ | ⟨-, he⟩ <;>
    rw [he] at h <;> cases h
  · exact .readToken hst hk
  · exact .writeToken hst hk
  · exact ackAndDecode_transition hst hk hf

/-- The inversion of ARB's move from every state, by the arbiter's state. -/
theorem arbMove_result {s t : State} (h : arbMove s = .next t) : ArbResult s t := by
  cases hst : s.state with
  | waitStart => exact inputStep_result (.inl hst) (arbMove_input (.inl hst) ▸ h)
  | waitData => exact inputStep_result (.inr hst) (arbMove_input (.inr hst) ▸ h)
  | okMessage => exact .inl (arbMove_ok_transition hst h)
  | crcFailure =>
    rw [arbMove_crc hst] at h; cases h
    exact .inl (sendNak_transition hst)
  | readTokenReceived =>
    rw [arbMove_read hst] at h; cases h
    exact .inl (serveReadToken_transition hst)
  | writeTokenReceived =>
    rw [arbMove_write hst] at h; cases h
    exact .inl (serveWriteToken_transition hst)
  | deliver =>
    rw [arbMove_deliver hst] at h
    exact emitPending_result (by simp [State.arbEnabled, hst]) (fun e hr hp => .deliver e hst hr hp) h
  | transportError =>
    rw [arbMove_error hst] at h
    exact emitPending_result (by simp [State.arbEnabled, hst]) (fun e hr hp => .report e hst hr hp) h
  | stopped =>
    rw [arbMove_stopped hst] at h; cases h
    exact .inr ⟨by simp [State.arbEnabled, hst], rfl⟩

/-! ## From the invariant, ARB's move answers a next state -/

theorem bufCap_ge_of_wf {c : Config} (h : c.wf = true) : 6 ≤ c.bufCap := by
  obtain ⟨-, -, -, hb, -⟩ := c.wf_iff.mp h
  exact hb

/-- What the invariant says of WAIT_DATA: an Incomplete buffer, with room for one more byte (R144). -/
theorem waitData_of_inv {s : State} (hi : s.inv = true) (hst : s.state = .waitData) :
    classify s.cfg s.buf = .incomplete ∧ s.buf.length < s.cfg.bufCap ∧ s.k = none ∧ s.noEvent = true := by
  obtain ⟨hc, -, hl⟩ := (State.inv_iff s).mp hi
  obtain ⟨-, hinc, hk, hn⟩ := (State.latchesWf_waitData hst).mp hl
  exact ⟨hinc, (incomplete_length (bufCap_ge_of_wf hc) hinc).1, hk, hn⟩

theorem takeByte_answers {s : State} (hl : s.state = .waitData → s.buf.length < s.cfg.bufCap) (b : Byte) :
    ∃ t, takeByte b s = .next t := by
  unfold takeByte
  split
  next hst => exact ⟨_, dataByte_eq (hl hst) b⟩
  next => exact ⟨_, rfl⟩

theorem inputStep_answers {s : State} (hl : s.state = .waitData → s.buf.length < s.cfg.bufCap) :
    ∃ t, inputStep s = .next t := by
  rcases inputStep_cases s with ⟨-, he⟩ | ⟨-, -, he⟩ | ⟨-, rest, -, he⟩ | ⟨-, b, rest, -, he⟩
  · exact ⟨_, he⟩
  · exact ⟨_, he⟩
  · exact ⟨_, he⟩
  · rw [he]; exact takeByte_answers (s := { s with rxPort := rest }) hl b

theorem emitPending_answers {s : State} {e : Event} (hp : s.pend = some e) (done : State → State) :
    ∃ t, emitPending done s = .next t := by
  rcases emitPending_cases done s with ⟨-, he⟩ | ⟨-, _, -, he⟩ | ⟨-, hn, -⟩
  · exact ⟨_, he⟩
  · exact ⟨_, he⟩
  · simp [hp] at hn

theorem arbMove_ok_answers {s : State} (hst : s.state = .okMessage) (hok : s.okWf = true) :
    ∃ t, arbMove s = .next t := by
  obtain ⟨kd, hk, hf⟩ := s.okWf_iff.mp hok
  obtain ⟨-, hparse⟩ := (s.frameIs_iff _).mp hf
  rcases arbMove_ok_cases hst with ⟨-, -, he⟩ | ⟨-, -, he⟩ | ⟨_, _, -, -, he⟩ | ⟨hn, -⟩
  · exact ⟨_, he⟩
  · exact ⟨_, he⟩
  · exact ⟨_, he⟩
  · simp [hk, Option.ne_none_iff_isSome.mpr hparse] at hn

/-- No latch ARB reads is empty (R35), and WAIT_DATA's append is in range (R144). -/
theorem arbMove_answers {s : State} (hi : s.inv = true) : ∃ t, arbMove s = .next t := by
  obtain ⟨-, -, hl⟩ := (State.inv_iff s).mp hi
  cases hst : s.state with
  | waitStart =>
    rw [arbMove_input (.inl hst)]
    exact inputStep_answers fun h => by simp [hst] at h
  | waitData =>
    rw [arbMove_input (.inr hst)]
    exact inputStep_answers fun h => (waitData_of_inv hi h).2.1
  | okMessage => exact arbMove_ok_answers hst ((State.latchesWf_okMessage hst).mp hl).1
  | crcFailure => exact ⟨_, arbMove_crc hst⟩
  | readTokenReceived => exact ⟨_, arbMove_read hst⟩
  | writeTokenReceived => exact ⟨_, arbMove_write hst⟩
  | deliver =>
    obtain ⟨e, hp⟩ := State.pend_of_deliverWf ((State.latchesWf_deliver hst).mp hl).1
    exact arbMove_deliver hst ▸ emitPending_answers hp _
  | transportError =>
    obtain ⟨-, -, he⟩ := (State.latchesWf_transportError hst).mp hl
    obtain ⟨_, -, hp⟩ := s.errorWf_iff.mp he
    exact arbMove_error hst ▸ emitPending_answers hp _
  | stopped => exact ⟨_, arbMove_stopped hst⟩

/-! ## Every row of R157 keeps the invariant -/

/-- WAIT_DATA's append keeps the storage within its bounds (R22); what the latches hold then depends on `classify`. -/
theorem storageWf_append {s : State} (hi : s.inv = true) (hst : s.state = .waitData) (b : Byte) :
    ({ s with buf := s.buf ++ [b] } : State).storageWf = true := by
  obtain ⟨-, hs, -⟩ := (State.inv_iff s).mp hi
  exact State.storageWf_appendByte (b := b) (by simp [State.appendByte, (waitData_of_inv hi hst).2.1]) hs

/-- A verdict that ends the frame in WAIT_DATA falls on one whole frame. -/
theorem frameIs_append {s : State} {b : Byte} {v : Verdict} (hi : s.inv = true) (hst : s.state = .waitData)
    (hv : classify s.cfg (s.buf ++ [b]) = v) (hend : v = .checksumFailure ∨ ∃ kd, v = .valid kd) :
    ({ s with buf := s.buf ++ [b] } : State).frameIs v = true := by
  obtain ⟨hc, -, -⟩ := (State.inv_iff s).mp hi
  refine (State.frameIs_iff _ _).mpr ⟨hv, ?_⟩
  exact (parse_of_complete (bufCap_ge_of_wf hc) (waitData_of_inv hi hst).1 (hv ▸ hend)).1

/-- In OK_MESSAGE the frame in `buf` is Valid of the latched kind. -/
theorem frameIs_of_inv_okMessage {s : State} {kd : FrameKind} (hi : s.inv = true) (hst : s.state = .okMessage)
    (hk : s.k = some kd) : s.frameIs (.valid kd) = true ∧ s.noEvent = true := by
  obtain ⟨-, -, hl⟩ := (State.inv_iff s).mp hi
  obtain ⟨hok, hn⟩ := (State.latchesWf_okMessage hst).mp hl
  obtain ⟨kd', hk', hf⟩ := s.okWf_iff.mp hok
  cases hk.symm.trans hk'
  exact ⟨hf, hn⟩

theorem Transition.keeps_inv {s t : State} (h : Transition s t) (hi : s.inv = true) : t.inv = true := by
  obtain ⟨hc, hs, hl⟩ := (State.inv_iff s).mp hi
  cases h with
  | cancel hst hcr => exact State.inv_enterStopped (s := s) hc hs
  | rxFail rest hst hcr hp => exact State.inv_enterTransportError .rx (s := { s with rxPort := rest }) hc hs
  | discard b rest hst hcr hp hb => exact hi
  | startMarker rest hst hcr hp =>
    obtain ⟨-, hk, hn⟩ := (State.latchesWf_waitStart hst).mp hl
    refine (State.inv_iff _).mpr ⟨hc, ?_, (State.latchesWf_waitData rfl).mpr ⟨by simp, rfl, hk, hn⟩⟩
    rw [State.storageWf_iff] at hs ⊢
    have hcap := bufCap_ge_of_wf hc
    exact ⟨by simp; omega, hs.2⟩
  | incomplete b rest hst hcr hp hv =>
    obtain ⟨-, -, hk, hn⟩ := waitData_of_inv hi hst
    exact (State.inv_iff _).mpr ⟨hc, storageWf_append hi hst b,
      (State.latchesWf_waitData (by exact hst)).mpr ⟨by simp, hv, hk, hn⟩⟩
  | invalid b rest hst hcr hp hv => exact State.inv_enterWaitStart (s := { s with rxPort := rest }) hc hs
  | badChecksum b rest hst hcr hp hv =>
    obtain ⟨-, -, hk, hn⟩ := waitData_of_inv hi hst
    exact (State.inv_iff _).mpr ⟨hc, storageWf_append hi hst b,
      (State.latchesWf_crcFailure rfl).mpr ⟨frameIs_append hi hst hv (.inl rfl), hk, hn⟩⟩
  | valid b rest kd hst hcr hp hv =>
    obtain ⟨-, -, -, hn⟩ := waitData_of_inv hi hst
    exact (State.inv_iff _).mpr ⟨hc, storageWf_append hi hst b, (State.latchesWf_okMessage rfl).mpr
      ⟨(State.okWf_iff _).mpr ⟨kd, rfl, frameIs_append hi hst hv (.inr ⟨kd, rfl⟩)⟩, hn⟩⟩
  | nakOk hst ha => exact State.inv_enterWaitStart (s := s.sentOk [0x15]) hc hs
  | nakFail n rest hst ha => exact State.inv_sentFail hc hs _ _
  | readToken hst hk =>
    obtain ⟨hf, hn⟩ := frameIs_of_inv_okMessage hi hst hk
    exact (State.inv_iff _).mpr ⟨hc, hs, (State.latchesWf_readTokenReceived rfl).mpr ⟨hf, hk, hn⟩⟩
  | writeToken hst hk =>
    obtain ⟨hf, hn⟩ := frameIs_of_inv_okMessage hi hst hk
    exact (State.inv_iff _).mpr ⟨hc, hs, (State.latchesWf_writeTokenReceived rfl).mpr ⟨hf, hk, hn⟩⟩
  | dataOk d f hst hk hp ha =>
    obtain ⟨hf, hn⟩ := frameIs_of_inv_okMessage hi hst hk
    exact (State.inv_iff _).mpr ⟨hc, hs, (State.latchesWf_deliver rfl).mpr
      ⟨State.deliverWf_of_data hk hp hf rfl, ((State.noEvent_iff s).mp hn).2⟩⟩
  | dataFail d n rest hst hk ha => exact State.inv_sentFail hc hs _ _
  | deliver e hst hr hp =>
    exact State.inv_enterWaitStart (s := State.emit e s) hc (State.storageWf_emit e hs hr)
  | serveReadOk hst ha =>
    exact State.inv_enterWaitStart (s := { s.sentOk (s.rdq.headD [0x06]) with rdq := s.rdq.tail }) hc
      (State.storageWf_rdq_tail hs)
  | serveReadFail n rest hst ha =>
    exact State.inv_sentFail (s := { s with rdq := s.rdq.tail }) hc (State.storageWf_rdq_tail hs) _ _
  | serveWriteOk hst ha =>
    exact State.inv_enterWaitStart (s := { s.sentOk (s.wrq.headD [0x06]) with wrq := s.wrq.tail }) hc
      (State.storageWf_wrq_tail hs)
  | serveWriteFail n rest hst ha =>
    exact State.inv_sentFail (s := { s with wrq := s.wrq.tail }) hc (State.storageWf_wrq_tail hs) _ _
  | report e hst hr hp => exact State.inv_enterStopped (s := State.emit e s) hc (State.storageWf_emit e hs hr)

/-! ## Every move keeps the invariant -/

theorem exec_host_keeps_inv {i : Instr} {s : State} (hi : i.isHost = true) (hs : s.inv = true) :
    ∃ t, exec i s = .next t ∧ t.inv = true := by
  obtain ⟨hc, hst, hl⟩ := (State.inv_iff s).mp hs
  rcases exec_host_cases hi s with ⟨st, d, he⟩ | ⟨-, -, he⟩ | ⟨-, hns, he⟩ | ⟨f, -, hf, hr, he⟩ |
    ⟨f, -, hf, hr, he⟩ | ⟨e, q, -, hq, he⟩ <;> refine ⟨_, he, ?_⟩ <;> rw [State.inv_respond]
  · exact hs
  · exact State.inv_enterWaitStart (s := { s with cancelReq := false }) hc hst
  · exact (State.inv_cancel hns).trans hs
  · exact (State.inv_iff _).mpr ⟨hc, State.storageWf_pushRead hst hf hr, hl⟩
  · exact (State.inv_iff _).mpr ⟨hc, State.storageWf_pushWrite hst hf hr, hl⟩
  · exact (State.inv_iff _).mpr ⟨hc, State.storageWf_pop hq hst, hl⟩

theorem arbMove_keeps_inv {s : State} (hi : s.inv = true) : ∃ t, arbMove s = .next t ∧ t.inv = true := by
  obtain ⟨t, ht⟩ := arbMove_answers hi
  rcases arbMove_result ht with hrow | ⟨-, rfl⟩
  · exact ⟨t, ht, hrow.keeps_inv hi⟩
  · exact ⟨t, ht, hi⟩

theorem step_keeps_inv {s : State} (hi : s.inv = true) : ∃ t, step s = .next t ∧ t.inv = true := by
  obtain ⟨hc, -, -⟩ := (State.inv_iff s).mp hi
  rcases hsch : s.sched with _ | ⟨m, rest⟩
  · exact ⟨s, step_idle hc hsch, hi⟩
  · cases m with
    | arb => exact step_arb hc hsch ▸ arbMove_keeps_inv (s := { s with sched := rest }) hi
    | host h f =>
      exact step_host hc hsch ▸ exec_host_keeps_inv (s := { s with sched := rest }) (decodeHost_isHost h f) hi
    | dev d => exact ⟨_, step_dev hc hsch, (State.inv_devStep d _).trans hi⟩

/-- Settles O50: each agent's move is taken by itself, ARB's through the rows of R157. -/
theorem everyStepKeepsTheInvariant : Obligations.EveryStepKeepsTheInvariant := fun _ => step_keeps_inv

/-- Settles O51, by induction on the length of the run. -/
theorem noRunEverStops : Obligations.NoRunEverStops := by
  intro n
  induction n with
  | zero => exact fun s hi => ⟨s, run_zero s, hi⟩
  | succ n ih =>
    intro s hi
    obtain ⟨u, hstep, hu⟩ := step_keeps_inv hi
    obtain ⟨t, hrun, ht⟩ := ih u hu
    exact ⟨t, (run_next hstep).trans hrun, ht⟩

/-- Settles O49: every storage is empty and every latch of STOPPED is clear. -/
theorem invariantHoldsAtReset : Obligations.InvariantHoldsAtReset := by
  intro c hc
  refine (State.inv_iff _).mpr ⟨hc, ?_, (State.latchesWf_stopped rfl).mpr ⟨rfl, rfl, rfl, rfl⟩⟩
  have hcap : ∀ cap : Option Nat, State.withinCap cap 0 = true := fun cap => by cases cap <;> simp [State.withinCap]
  simp [State.storageWf_iff, State.resetWith, State.queueWf, hcap]

/-! ## The configuration is never written (R20) -/

theorem Transition.cfg_eq {s t : State} (h : Transition s t) : t.cfg = s.cfg := by
  cases h <;> rfl

theorem exec_host_cfg {i : Instr} {s t : State} (hi : i.isHost = true) (h : exec i s = .next t) : t.cfg = s.cfg := by
  rcases exec_host_cases hi s with ⟨_, _, he⟩ | ⟨-, -, he⟩ | ⟨-, -, he⟩ | ⟨_, -, -, -, he⟩ |
    ⟨_, -, -, -, he⟩ | ⟨_, _, -, -, he⟩ <;> cases he.symm.trans h <;> rfl

theorem devStep_cfg (d : DevMove) (s : State) : (State.devStep d s).cfg = s.cfg := by
  cases d <;> rfl

theorem step_cfg {s t : State} (h : step s = .next t) : t.cfg = s.cfg := by
  obtain ⟨-, ⟨-, rfl⟩ | ⟨hcw, f, rest, -, he⟩ | ⟨d, rest, -, rfl⟩ | ⟨rest, -, he⟩⟩ := step_next_cases h
  · rfl
  · exact exec_host_cfg (s := { s with sched := rest }) (decodeHost_isHost hcw f) he
  · exact devStep_cfg d _
  · rcases arbMove_result he with hrow | ⟨-, rfl⟩
    · exact hrow.cfg_eq
    · rfl

/-- Settles O53, by induction on the length of the run. -/
theorem configurationNeverChanges : Obligations.ConfigurationNeverChanges := by
  intro n
  induction n with
  | zero => intro s t h; cases h; rfl
  | succ n ih =>
    intro s t h
    obtain ⟨u, hstep, hrun⟩ := run_succ h
    exact (ih u t hrun).trans (step_cfg hstep)

/-! ## The two ports of each queue (R28, R58) -/

/-- The step from `s` to `t` writes `w` to TX: all of it, or an initial part of it where DEV answers TxFail (R54). -/
def Writes (w : Bytes) (s t : State) : Prop :=
  ∃ p, p <+: w ∧ t.txTrace = s.txTrace ++ p ∧ (s.nextTxFails = false → p = w)

theorem writes_of_ok {w : Bytes} {s t : State} (h : t.txTrace = s.txTrace ++ w) : Writes w s t :=
  ⟨w, List.prefix_rfl, h, fun _ => rfl⟩

theorem writes_of_fail {w : Bytes} {s t : State} {n : Nat} {rest : List TxAnswer} (ha : s.txAnswers = .fail n :: rest)
    (h : t.txTrace = s.txTrace ++ w.take n) : Writes w s t :=
  ⟨w.take n, List.take_prefix n w, h, fun hn => by simp [State.nextTxFails, ha] at hn⟩

/-- A token's service on the queue `q`: the head is lost and written, and an empty queue stays empty. -/
theorem service_cases {q q' : List Bytes} {s t : State} (hq : q' = q.tail) (hw : Writes (q.headD [0x06]) s t) :
    q' = q ∨ ∃ f r, q = f :: r ∧ q' = r ∧ Writes f s t := by
  cases q with
  | nil => exact .inl hq
  | cons f r => exact .inr ⟨f, r, rfl, hq, hw⟩

theorem Transition.rdq_cases {s t : State} (h : Transition s t) :
    t.rdq = s.rdq ∨
      (s.state = .readTokenReceived ∧ ∃ f q, s.rdq = f :: q ∧ t.rdq = q ∧ Writes f s t) := by
  cases h with
  | serveReadOk hst ha => exact (service_cases rfl (writes_of_ok rfl)).imp_right (.intro hst)
  | serveReadFail n rest hst ha => exact (service_cases rfl (writes_of_fail ha rfl)).imp_right (.intro hst)
  | _ => exact .inl rfl

theorem Transition.wrq_cases {s t : State} (h : Transition s t) :
    t.wrq = s.wrq ∨
      (s.state = .writeTokenReceived ∧ ∃ f q, s.wrq = f :: q ∧ t.wrq = q ∧ Writes f s t) := by
  cases h with
  | serveWriteOk hst ha => exact (service_cases rfl (writes_of_ok rfl)).imp_right (.intro hst)
  | serveWriteFail n rest hst ha => exact (service_cases rfl (writes_of_fail ha rfl)).imp_right (.intro hst)
  | _ => exact .inl rfl

/-- A host command changes a queue only by its enqueue, at the tail. -/
theorem exec_host_queues {i : Instr} {s t : State} (hi : i.isHost = true) (h : exec i s = .next t) :
    (t.rdq = s.rdq ∨ ∃ f, i = .enqRead f ∧ t.rdq = s.rdq ++ [f]) ∧
    (t.wrq = s.wrq ∨ ∃ f, i = .enqWrite f ∧ t.wrq = s.wrq ++ [f]) := by
  rcases exec_host_cases hi s with ⟨_, _, he⟩ | ⟨-, -, he⟩ | ⟨-, -, he⟩ | ⟨f, hf, -, -, he⟩ |
    ⟨f, hf, -, -, he⟩ | ⟨_, _, -, -, he⟩ <;> cases he.symm.trans h
  · exact ⟨.inl rfl, .inl rfl⟩
  · exact ⟨.inl rfl, .inl rfl⟩
  · exact ⟨.inl rfl, .inl rfl⟩
  · exact ⟨.inr ⟨f, hf, rfl⟩, .inl rfl⟩
  · exact ⟨.inl rfl, .inr ⟨f, hf, rfl⟩⟩
  · exact ⟨.inl rfl, .inl rfl⟩

/-- An enqueue's operand is the FRAME its move carries, R84. -/
theorem decodeHost_enq_frame {h : Hcw} {frame f : Bytes}
    (hd : decodeHost h frame = .enqRead f ∨ decodeHost h frame = .enqWrite f) : f = frame := by
  unfold decodeHost at hd
  split at hd
  · simp at hd
  · split at hd <;> simp at hd <;> exact hd.symm

theorem devStep_queues (d : DevMove) (s : State) :
    (State.devStep d s).rdq = s.rdq ∧ (State.devStep d s).wrq = s.wrq := by
  cases d <;> exact ⟨rfl, rfl⟩

/-- Settles O55: only a host's enqueue and ARB's service of the queue's own token touch a queue. -/
theorem queuesAreFifoWithOneConsumer : Obligations.QueuesAreFifoWithOneConsumer := by
  intro s t h
  obtain ⟨-, ⟨-, rfl⟩ | ⟨hcw, frame, rest, hsch, he⟩ | ⟨d, rest, -, rfl⟩ | ⟨rest, hsch, he⟩⟩ := step_next_cases h
  · exact ⟨.inl rfl, .inl rfl⟩
  · obtain ⟨hr, hw⟩ := exec_host_queues (decodeHost_isHost hcw frame) he
    refine ⟨hr.imp_right fun ⟨f, hf, hq⟩ => .inl ?_, hw.imp_right fun ⟨f, hf, hq⟩ => .inl ?_⟩
    · cases decodeHost_enq_frame (.inl hf)
      exact ⟨hcw, frame, rest, hsch, hf, hq⟩
    · cases decodeHost_enq_frame (.inr hf)
      exact ⟨hcw, frame, rest, hsch, hf, hq⟩
  · obtain ⟨hr, hw⟩ := devStep_queues d { s with sched := rest }
    exact ⟨.inl hr, .inl hw⟩
  · rcases arbMove_result he with hrow | ⟨-, rfl⟩
    · exact ⟨hrow.rdq_cases.imp_right fun ⟨hst, f, q, hq⟩ => .inr ⟨rest, f, q, hsch, hst, hq⟩,
        hrow.wrq_cases.imp_right fun ⟨hst, f, q, hq⟩ => .inr ⟨rest, f, q, hsch, hst, hq⟩⟩
    · exact ⟨.inl rfl, .inl rfl⟩

end Sys2Proof.Machine
end

section
/-! PROOFS. The family 20_memory.md: the host's command port (R57), the event port (R59, R192, R193), and the
RX port (R55). -/

namespace Sys2Proof.Machine

open Sys2Proof

/-! ## The event port (R59, R192, R193) -/

/-- The step from `s` to `t` delivers no event: those popped and then those waiting stay as they are, and so do the
pending event of DELIVER and TRANSPORT_ERROR and the state that holds it. -/
def EventsStay (s t : State) : Prop :=
  t.popped ++ t.evq = s.popped ++ s.evq ∧
    (s.state = .deliver ∨ s.state = .transportError → t.state = s.state ∧ t.pend = s.pend)

/-- The step from `s` to `t` delivers the pending event, R149 and R153. -/
def EventDelivered (s t : State) : Prop :=
  ∃ e, s.pend = some e ∧
    ((s.state = .deliver ∧ t.state = .waitStart) ∨ (s.state = .transportError ∧ t.state = .stopped)) ∧
    t.popped ++ t.evq = s.popped ++ s.evq ++ [e] ∧ t.pend = none

theorem eventsStay_refl (s : State) : EventsStay s s := ⟨rfl, fun _ => ⟨rfl, rfl⟩⟩

theorem Transition.popped_eq {s t : State} (h : Transition s t) : t.popped = s.popped := by
  cases h <;> rfl

/-- Only the rows of R149 and R153 write `evq`. -/
theorem Transition.evq_eq {s t : State} (h : Transition s t) (hd : s.state ≠ .deliver)
    (ht : s.state ≠ .transportError) : t.evq = s.evq := by
  cases h with
  | deliver e hst hr hp => exact absurd hst hd
  | report e hst hr hp => exact absurd hst ht
  | _ => rfl

theorem Transition.eventsStay {s t : State} (h : Transition s t) (hd : s.state ≠ .deliver)
    (ht : s.state ≠ .transportError) : EventsStay s t :=
  ⟨by rw [h.popped_eq, h.evq_eq hd ht], fun hst => (hst.elim hd ht).elim⟩

/-- R149 and R153: ARB holds without room in `evq`, and otherwise delivers, given that going on as `done` says does. -/
theorem emitPending_events {done : State → State} {s t : State}
    (hdone : ∀ e, s.pend = some e → EventDelivered s (done (State.emit e s))) (h : emitPending done s = .next t) :
    EventsStay s t ∨ EventDelivered s t := by
  rcases emitPending_cases done s with ⟨-, he⟩ | ⟨-, e, hp, he⟩ | ⟨-, -, he⟩ <;> cases he.symm.trans h
  · exact .inl (eventsStay_refl _)
  · exact .inr (hdone e hp)

theorem arbMove_events {s t : State} (h : arbMove s = .next t) : EventsStay s t ∨ EventDelivered s t := by
  by_cases hd : s.state = .deliver
  · exact emitPending_events (done := State.enterWaitStart)
      (fun e hp => ⟨e, hp, .inl ⟨hd, rfl⟩, (List.append_assoc ..).symm, rfl⟩) ((arbMove_deliver hd).symm.trans h)
  by_cases ht : s.state = .transportError
  · exact emitPending_events (done := State.enterStopped)
      (fun e hp => ⟨e, hp, .inr ⟨ht, rfl⟩, (List.append_assoc ..).symm, rfl⟩) ((arbMove_error ht).symm.trans h)
  rcases arbMove_result h with hrow | ⟨-, rfl⟩
  · exact .inl (hrow.eventsStay hd ht)
  · exact .inl (eventsStay_refl _)

/-- LSN pops; ARB's move leaves the record of popped events as it is. -/
theorem arbMove_popped {s t : State} (h : arbMove s = .next t) : t.popped = s.popped := by
  rcases arbMove_result h with hrow | ⟨-, rfl⟩
  · exact hrow.popped_eq
  · rfl

/-- EVENT_POP moves the head of `evq` to the end of `popped`; no other host command touches either, and CONNECT, the
one that changes ARB's state, does so in STOPPED only. -/
theorem exec_host_events {i : Instr} {s t : State} (hi : i.isHost = true) (h : exec i s = .next t) :
    s.popped <+: t.popped ∧ EventsStay s t := by
  rcases exec_host_cases hi s with ⟨_, _, he⟩ | ⟨-, hst, he⟩ | ⟨-, -, he⟩ | ⟨_, -, -, -, he⟩ |
    ⟨_, -, -, -, he⟩ | ⟨e, q, -, hq, he⟩ <;> cases he.symm.trans h
  case inr.inl => exact ⟨List.prefix_rfl, rfl, by simp [hst]⟩
  case inr.inr.inr.inr.inr => exact ⟨List.prefix_append .., by simp [hq], fun _ => ⟨rfl, rfl⟩⟩
  all_goals exact ⟨List.prefix_rfl, rfl, fun _ => ⟨rfl, rfl⟩⟩

theorem devStep_events (d : DevMove) (s : State) :
    s.popped <+: (State.devStep d s).popped ∧ EventsStay s (State.devStep d s) := by
  cases d <;> exact ⟨List.prefix_rfl, eventsStay_refl s⟩

/-- Settles O56: LSN's pop moves an event along, and only ARB's delivery adds one, at the end. -/
theorem eventsAreDeliveredOnceInOrder : Obligations.EventsAreDeliveredOnceInOrder := by
  intro s t h
  obtain ⟨-, ⟨-, rfl⟩ | ⟨hcw, f, rest, -, he⟩ | ⟨d, rest, -, rfl⟩ | ⟨rest, hsch, he⟩⟩ := step_next_cases h
  · exact ⟨List.prefix_rfl, .inl (eventsStay_refl _)⟩
  · obtain ⟨hpre, hstay⟩ := exec_host_events (decodeHost_isHost hcw f) he
    exact ⟨hpre, .inl hstay⟩
  · obtain ⟨hpre, hstay⟩ := devStep_events d { s with sched := rest }
    exact ⟨hpre, .inl hstay⟩
  · have hpop := arbMove_popped he
    exact ⟨hpop ▸ List.prefix_rfl, (arbMove_events he).imp_right fun ⟨e, hev⟩ => ⟨rest, e, hsch, hev⟩⟩

/-! ## The RX port (R55) -/

/-- The step from `s` to `t` consumes the one RX input at the head of the port, R142 and R55. -/
def ConsumesInput (s t : State) : Prop :=
  (s.state = .waitStart ∨ s.state = .waitData) ∧ s.cancelReq = false ∧ ∃ x, s.rxPort = x :: t.rxPort

theorem Transition.rxPort_cases {s t : State} (h : Transition s t) : t.rxPort = s.rxPort ∨ ConsumesInput s t := by
  cases h with
  | rxFail rest hst hc hp => exact .inr ⟨hst, hc, _, hp⟩
  | discard b rest hst hc hp hb => exact .inr ⟨.inl hst, hc, _, hp⟩
  | startMarker rest hst hc hp => exact .inr ⟨.inl hst, hc, _, hp⟩
  | incomplete b rest hst hc hp hv => exact .inr ⟨.inr hst, hc, _, hp⟩
  | invalid b rest hst hc hp hv => exact .inr ⟨.inr hst, hc, _, hp⟩
  | badChecksum b rest hst hc hp hv => exact .inr ⟨.inr hst, hc, _, hp⟩
  | valid b rest kd hst hc hp hv => exact .inr ⟨.inr hst, hc, _, hp⟩
  | _ => exact .inl rfl

theorem arbMove_rxPort {s t : State} (h : arbMove s = .next t) : t.rxPort = s.rxPort ∨ ConsumesInput s t := by
  rcases arbMove_result h with hrow | ⟨-, rfl⟩
  · exact hrow.rxPort_cases
  · exact .inl rfl

theorem exec_host_rxPort {i : Instr} {s t : State} (hi : i.isHost = true) (h : exec i s = .next t) :
    t.rxPort = s.rxPort := by
  rcases exec_host_cases hi s with ⟨_, _, he⟩ | ⟨-, -, he⟩ | ⟨-, -, he⟩ | ⟨_, -, -, -, he⟩ |
    ⟨_, -, -, -, he⟩ | ⟨_, _, -, -, he⟩ <;> cases he.symm.trans h <;> rfl

/-- Settles O58: HOST and LSN leave the port, DEV's moves are what they say, and ARB's rows consume its head. -/
theorem rxIsConsumedOnlyInInputStates : Obligations.RxIsConsumedOnlyInInputStates := by
  intro s t h
  obtain ⟨-, ⟨-, rfl⟩ | ⟨hcw, f, rest, -, he⟩ | ⟨d, rest, hsch, rfl⟩ | ⟨rest, hsch, he⟩⟩ := step_next_cases h
  · exact .inl rfl
  · exact .inl (exec_host_rxPort (s := { s with sched := rest }) (decodeHost_isHost hcw f) he)
  · cases d with
    | offer x => exact .inr (.inl ⟨x, rest, hsch, rfl⟩)
    | answer a => exact .inl rfl
    | withdraw => exact .inr (.inr (.inl ⟨rest, hsch, rfl⟩))
  · exact (arbMove_rxPort he).imp_right fun hin => .inr (.inr ⟨⟨rest, hsch⟩, hin⟩)

/-! ## The command port (R57, R180) -/

/-- The host port's words all decode: to what `decodeHost` makes of them (R85, R180). -/
theorem decode_host {c : Config} {h : Hcw} {frame : Bytes} {i : Instr} (hd : decode c (.host h frame) = .ok i) :
    decodeHost h frame = i := by
  simpa [decode] using hd

/-- Settles O38: the decoder and the fetch of a host move read the word alike. -/
theorem stepRunsTheHostCommand : Obligations.StepRunsTheHostCommand := by
  intro s h frame rest i hwf hsch hd
  rw [step_host hwf hsch, decode_host hd]

end Sys2Proof.Machine
end

section
/-! PROOFS. The family 30_encoding.md: the kind rows (R78), the frame and its declared length (R70, R72, R83), the
host command word (R84, R85), and decoding against encoding on the three ports (R70, R73, R74, R84). -/

namespace Sys2Proof

/-! ## The kind rows (R78) -/

theorem auxCmdMatches_iff (c : Config) (cmd : Byte) :
    auxCmdMatches c cmd = true ↔ c.auxCmd = none ∨ c.auxCmd = some cmd := by
  unfold auxCmdMatches
  split
  next h => simp [h]
  next x h => simp [h, eq_comm]

/-- The row of R78's table that belongs to a kind, as a condition on the bus address and the command: OTHER's is
that no other row applies. -/
def KindRow (c : Config) (a cmd : Byte) : FrameKind → Prop
  | .broadcast => a = c.primaryAddr ∧ cmd = c.cmdBroadcast
  | .readResp => a = c.primaryAddr ∧ cmd = c.cmdReadResp
  | .writeResp => a = c.primaryAddr ∧ cmd = c.cmdWriteResp
  | .readToken => a = c.primaryAddr ∧ cmd = cmdReadToken
  | .writeToken => a = c.primaryAddr ∧ cmd = c.cmdWriteToken
  | .auxBroadcast => a = c.auxAddr ∧ (c.auxCmd = none ∨ c.auxCmd = some cmd)
  | .other =>
    ¬ (a = c.primaryAddr ∧ (cmd = c.cmdBroadcast ∨ cmd = c.cmdReadResp ∨ cmd = c.cmdWriteResp ∨
        cmd = cmdReadToken ∨ cmd = c.cmdWriteToken)) ∧
    ¬ (a = c.auxAddr ∧ (c.auxCmd = none ∨ c.auxCmd = some cmd))

/-- The kind chosen has its row: `kindOf` tries the rows in turn and falls to OTHER after all of them. -/
theorem kindRow_kindOf (c : Config) (a cmd : Byte) : KindRow c a cmd (kindOf c a cmd) := by
  unfold kindOf
  split_ifs with hb hr hw hrt hwt hx
  · exact hb
  · exact hr
  · exact hw
  · exact hrt
  · exact hwt
  · exact ⟨hx.1, (auxCmdMatches_iff c cmd).mp hx.2⟩
  · refine ⟨?_, fun h => hx ⟨h.1, (auxCmdMatches_iff c cmd).mpr h.2⟩⟩
    rintro ⟨ha, h | h | h | h | h⟩
    exacts [hb ⟨ha, h⟩, hr ⟨ha, h⟩, hw ⟨ha, h⟩, hrt ⟨ha, h⟩, hwt ⟨ha, h⟩]

/-- The command bytes of R8 (a), each unlike those before it, and the two bus addresses of R8 (b). -/
theorem Config.row_bytes_distinct {c : Config} (h : c.wf = true) :
    c.cmdReadResp ≠ c.cmdBroadcast ∧
    (c.cmdWriteResp ≠ c.cmdBroadcast ∧ c.cmdWriteResp ≠ c.cmdReadResp) ∧
    (cmdReadToken ≠ c.cmdBroadcast ∧ cmdReadToken ≠ c.cmdReadResp ∧ cmdReadToken ≠ c.cmdWriteResp) ∧
    (c.cmdWriteToken ≠ c.cmdBroadcast ∧ c.cmdWriteToken ≠ c.cmdReadResp ∧ c.cmdWriteToken ≠ c.cmdWriteResp ∧
      c.cmdWriteToken ≠ cmdReadToken) ∧
    c.auxAddr ≠ c.primaryAddr := by
  obtain ⟨hcmds, haddr, -⟩ := c.wf_iff.mp h
  simp only [inboundCmds, List.nodup_cons, List.mem_cons, List.not_mem_nil, or_false, not_or] at hcmds
  obtain ⟨⟨h21, h31, h41, h51⟩, ⟨h32, h42, h52⟩, ⟨h43, h53⟩, h54, -⟩ := hcmds
  exact ⟨Ne.symm h21, ⟨Ne.symm h31, Ne.symm h32⟩, ⟨Ne.symm h41, Ne.symm h42, Ne.symm h43⟩,
    ⟨Ne.symm h51, Ne.symm h52, Ne.symm h53, Ne.symm h54⟩, haddr⟩

/-- A row that applies is the one chosen, as R8 keeps the rows before it from applying too. -/
theorem kindOf_of_kindRow {c : Config} (hc : c.wf = true) {a cmd : Byte} {kd : FrameKind}
    (h : KindRow c a cmd kd) : kindOf c a cmd = kd := by
  obtain ⟨hr, hw, hrt, hwt, haux⟩ := Config.row_bytes_distinct hc
  cases kd with
  | broadcast => obtain ⟨rfl, rfl⟩ := h; simp [kindOf]
  | readResp => obtain ⟨rfl, rfl⟩ := h; simp [kindOf, hr]
  | writeResp => obtain ⟨rfl, rfl⟩ := h; simp [kindOf, hw]
  | readToken => obtain ⟨rfl, rfl⟩ := h; simp [kindOf, hrt]
  | writeToken => obtain ⟨rfl, rfl⟩ := h; simp [kindOf, hwt]
  | auxBroadcast => obtain ⟨rfl, hx⟩ := h; simp [kindOf, haux, (auxCmdMatches_iff c cmd).mpr hx]
  | other =>
    obtain ⟨hp, hx⟩ := h
    match kindOf c a cmd, kindRow_kindOf c a cmd with
    | .broadcast, ⟨ha, h⟩ => exact absurd ⟨ha, .inl h⟩ hp
    | .readResp, ⟨ha, h⟩ => exact absurd ⟨ha, .inr (.inl h)⟩ hp
    | .writeResp, ⟨ha, h⟩ => exact absurd ⟨ha, .inr (.inr (.inl h))⟩ hp
    | .readToken, ⟨ha, h⟩ => exact absurd ⟨ha, .inr (.inr (.inr (.inl h)))⟩ hp
    | .writeToken, ⟨ha, h⟩ => exact absurd ⟨ha, .inr (.inr (.inr (.inr h)))⟩ hp
    | .auxBroadcast, h => exact absurd h hx
    | .other, _ => rfl

theorem kindOf_eq_iff {c : Config} (hc : c.wf = true) (a cmd : Byte) (kd : FrameKind) :
    kindOf c a cmd = kd ↔ KindRow c a cmd kd :=
  ⟨fun h => h ▸ kindRow_kindOf c a cmd, kindOf_of_kindRow hc⟩

/-- Settles O10: the codes by inspection, the rows by `kindOf_eq_iff` at each kind. -/
theorem kindRowsAreExclusive : Obligations.KindRowsAreExclusive := by
  refine ⟨rfl, rfl, rfl, rfl, rfl, rfl, rfl, ?_, ?_⟩
  · intro kd
    cases kd <;> decide
  · intro c a cmd hc
    have row := kindOf_eq_iff hc a cmd
    exact ⟨row .broadcast, row .readResp, row .writeResp, row .readToken, row .writeToken, row .auxBroadcast,
      row .other⟩

/-! ## The frame and its declared length (R70, R72, R83) -/

theorem InFrame.wellFormed_iff (c : Config) (kd : FrameKind) (f : InFrame) : f.wellFormed c kd = true ↔
    f.payload.length < 256 ∧ f.payload.length + 6 ≤ c.bufCap ∧
    verifyChecksum f.bytes f.payload.length = true ∧ kindOf c f.addr f.cmd = kd := by
  simp only [wellFormed, Bool.and_eq_true, decide_eq_true_eq, and_assoc]

/-- Up to offset 3 nothing is decided once the marker and the reserved byte are right, R103. -/
theorem classify_before_length (c : Config) {rest : Bytes} (h : rest.length < 3) :
    classify c (startIn :: reservedByte :: rest) = .incomplete := by
  match rest with
  | [] => simp [classify]
  | [_] => simp [classify]
  | [_, _] => simp [classify]
  | _ :: _ :: _ :: _ => simp at h; omega

/-- A part of a frame that fits the buffer is Incomplete until offset `5 + N` has arrived. -/
theorem classify_take_incomplete {c : Config} {f : InFrame} (hl : f.payload.length < 256)
    (hcap : f.payload.length + 6 ≤ c.bufCap) {n : Nat} (hn : n < f.payload.length + 6) :
    classify c (f.bytes.take n) = .incomplete := by
  match n with
  | 0 => simp [classify]
  | 1 => simp [InFrame.bytes, classify]
  | 2 => exact classify_before_length c (rest := []) (by simp)
  | 3 => exact classify_before_length c (rest := [f.addr]) (by simp)
  | 4 => exact classify_before_length c (rest := [f.addr, f.cmd]) (by simp)
  | m + 5 =>
    have hcut : f.bytes.take (m + 5) =
        startIn :: reservedByte :: f.addr :: f.cmd :: f.lenByte :: (f.payload ++ [f.cs]).take m := rfl
    have hshort : ((f.payload ++ [f.cs]).take m).length < f.payload.length + 1 := by
      rw [List.length_take]
      omega
    rw [hcut, classify_header, lenByte_toNat hl, if_neg (Nat.not_lt.mpr hcap), if_pos hshort]

/-- Settles O5: the whole frame by `classify_wellFormed`, its proper parts by `classify_take_incomplete`. -/
theorem frameIsCompleteAtItsDeclaredLength : Obligations.FrameIsCompleteAtItsDeclaredLength := by
  intro c kd f hwf
  obtain ⟨hl, hcap, -, -⟩ := (f.wellFormed_iff c kd).mp hwf
  exact ⟨bytes_length f, classify_wellFormed hwf, fun _ _ hn => classify_take_incomplete hl hcap hn⟩

/-! ## The RX port (R70, R78) -/

@[simp] theorem wellFormed_rxInstr (c : Config) (kd : FrameKind) (f : InFrame) :
    (rxInstr kd f).wellFormed c = f.wellFormed c kd := by
  cases kd <;> rfl

@[simp] theorem encode_rxInstr (c : Config) (kd : FrameKind) (f : InFrame) :
    encode c (rxInstr kd f) = .rx f.bytes := by
  cases kd <;> rfl

theorem decode_encode_rxInstr {c : Config} {kd : FrameKind} {f : InFrame} (h : f.wellFormed c kd = true) :
    decode c (encode c (rxInstr kd f)) = .ok (rxInstr kd f) := by
  rw [encode_rxInstr]
  exact decodeRx_wellFormed h

/-- What decodes on the RX port is a well-formed frame of the kind `classify` answers, and its bytes. -/
theorem wellFormed_of_decodeRx {c : Config} {b : Bytes} {i : Instr} (h : decodeRx c b = .ok i) :
    ∃ kd f, i = rxInstr kd f ∧ f.bytes = b ∧ f.wellFormed c kd = true := by
  unfold decodeRx at h
  split at h
  · cases h
  · cases h
  · cases h
  next kd hv =>
    split at h
    next f hp =>
      obtain ⟨rfl, hl⟩ := bytes_of_parse hp
      cases h
      exact ⟨kd, f, rfl, rfl, wellFormed_of_classify hl hv⟩
    · cases h

/-! ## The host command port (R84, R85) -/

/-- A host command's word decodes to it: its fields read back, and a reserved word is kept whole. -/
theorem decode_encode_host {c : Config} {i : Instr} (hi : i.isHost = true) (h : i.wellFormed c = true) :
    decode c (encode c i) = .ok i := by
  cases i with
  | connect | disconnect | enqRead _ | enqWrite _ | buildRead _ | buildWrite _ _ _ _ | status | eventPop =>
    simp [decode, encode, decodeHost, opHcw, hcwIllegal_mkHcw]
  | reservedOp hcw =>
    have hbad : hcwIllegal hcw = true := h
    simp [decode, encode, decodeHost, hbad]
  | _ => cases hi

/-! ## The TX port (R73, R74) -/

theorem decode_tx_eq_ok_iff {c : Config} {b : Bytes} {i : Instr} :
    decode c (.tx b) = .ok i ↔ decodeTx c b = some i := by
  cases h : decodeTx c b with
  | none => simp [decode, h]
  | some j => simp [decode, h]

/-! ## Decoding against encoding -/

/-- Settles O1, by the port that carries the instruction's word. -/
theorem decodeOfEncodeIsTheInstruction : Obligations.DecodeOfEncodeIsTheInstruction := by
  intro c i h
  cases i with
  | connect | disconnect | enqRead _ | enqWrite _ | buildRead _ | buildWrite _ _ _ _ | status | eventPop
  | reservedOp _ => exact decode_encode_host rfl h
  | rxReadToken f => exact decode_encode_rxInstr (kd := .readToken) h
  | rxWriteToken f => exact decode_encode_rxInstr (kd := .writeToken) h
  | rxBroadcast f => exact decode_encode_rxInstr (kd := .broadcast) h
  | rxReadResp f => exact decode_encode_rxInstr (kd := .readResp) h
  | rxWriteResp f => exact decode_encode_rxInstr (kd := .writeResp) h
  | rxAuxBroadcast f => exact decode_encode_rxInstr (kd := .auxBroadcast) h
  | rxOther f => exact decode_encode_rxInstr (kd := .other) h
  | txReadReq a => exact decode_tx_eq_ok_iff.mpr (decodeTx_readReq c a)
  | txWriteReq a v => exact decode_tx_eq_ok_iff.mpr (decodeTx_writeReq c a v false)
  | txAck | txNak => rfl

/-- Settles O2: on RX through the frame that `decodeRx` parsed, on TX by `encode_of_decodeTx`. -/
theorem wireWordsHaveOneMeaning : Obligations.WireWordsHaveOneMeaning := by
  intro c i b
  constructor
  · intro h
    obtain ⟨kd, f, rfl, rfl, hwf⟩ := wellFormed_of_decodeRx h
    simp [hwf]
  · exact fun h => encode_of_decodeTx (decode_tx_eq_ok_iff.mp h)

/-! ## Words written out from the spec -/

/-- The read token of R77 at 0x20 is well-formed: its row is chosen whatever the other command bytes are. -/
theorem wellFormed_readToken_0x20 {c : Config} (hc : c.wf = true) (hp : c.primaryAddr = 0x20) :
    InFrame.wellFormed c .readToken ⟨0x20, 0x69, [], 0x49⟩ = true := by
  obtain ⟨-, -, -, hcap, -⟩ := c.wf_iff.mp hc
  have hrow : KindRow c 0x20 0x69 .readToken := ⟨hp.symm, rfl⟩
  exact (InFrame.wellFormed_iff ..).mpr ⟨by decide, hcap, by decide, kindOf_of_kindRow hc hrow⟩

/-- Settles O4: the read token as a well-formed frame under every configuration, the other words by running the
decoder. -/
theorem writtenOutWordsDecode : Obligations.WrittenOutWordsDecode :=
  ⟨fun _ hc hp => decodeRx_wellFormed (wellFormed_readToken_0x20 hc hp), by decide, by decide, by decide,
    rfl, rfl, rfl, rfl⟩

end Sys2Proof
end

section
/-! PROOFS. The family 40_frame_codec.md: the checksum (R101, R102), classification (R103), the destuff scan and the
effective length (R104, R105), the decoders (R106 to R110), and the built requests and their way onto the wire
(R111, R112, R150, R151). -/

namespace Sys2Proof

/-! ## The checksum (R101, R102) -/

theorem xorsum_append (s t : Bytes) : xorsum (s ++ t) = xorsum s ^^^ xorsum t :=
  calc xorsum (s ++ t) = t.foldl (· ^^^ ·) (xorsum s ^^^ 0) := by simp [xorsum]
    _ = xorsum s ^^^ xorsum t := List.foldl_assoc

@[simp] theorem xorsum_singleton (b : Byte) : xorsum [b] = b := by simp [xorsum]

theorem xorsum_cons (b : Byte) (s : Bytes) : xorsum (b :: s) = b ^^^ xorsum s := by
  rw [← List.singleton_append, xorsum_append, xorsum_singleton]

theorem xorsum_perm {s t : Bytes} (h : s.Perm t) : xorsum s = xorsum t := by
  induction h with
  | nil => rfl
  | cons b _ ih => rw [xorsum_cons, xorsum_cons, ih]
  | swap a b s => simp only [xorsum_cons, ← BitVec.xor_assoc, BitVec.xor_comm a b]
  | trans _ _ ih₁ ih₂ => exact ih₁.trans ih₂

/-- A sequence closed by its checksum has checksum 0. -/
theorem xorsum_append_xorsum (s : Bytes) : xorsum (s ++ [xorsum s]) = 0 := by
  rw [xorsum_append, xorsum_singleton]
  exact BitVec.xor_self

/-- Settles O7, from the checksum of an appended sequence and its invariance under permutation. -/
theorem checksumIsAnXor : Obligations.ChecksumIsAnXor := by
  refine ⟨rfl, fun s b => ?_, fun s t => xorsum_perm, fun s t b => ?_⟩
  · rw [xorsum_append, xorsum_singleton]
  · have hpair : xorsum [b, b] = 0#8 := by rw [xorsum_cons, xorsum_singleton, BitVec.xor_self]
    rw [xorsum_append, xorsum_append, xorsum_append, hpair, BitVec.xor_zero]

/-- `verifyChecksum` on `N + 3` covered bytes between offsets 0 and 1 and the checksum byte, R102. -/
theorem verifyChecksum_iff (b0 b1 t : Byte) {covered : Bytes} {n : Nat} (h : covered.length = n + 3) :
    verifyChecksum (b0 :: b1 :: (covered ++ [t])) n = true ↔
      t = xorsum covered ∨ (xorsum covered = startIn ∧ t = csAlias) := by
  have hlast : (b0 :: b1 :: (covered ++ [t])).drop (5 + n) = [t] := by
    rw [show 5 + n = covered.length + 2 by omega]
    simp
  have hcovered : (covered ++ [t]).take (n + 3) = covered := by
    rw [← h, List.take_left]
  simp [verifyChecksum, hlast, hcovered]

/-- Settles O8: `verifyChecksum_iff` with its two constants written out. -/
theorem checksumAliasOnlyForStartMarker : Obligations.ChecksumAliasOnlyForStartMarker :=
  fun b0 b1 t _ _ h => verifyChecksum_iff b0 b1 t h

/-! ## Classification (R103) -/

theorem classify_wrong_marker (c : Config) {b : Byte} (h : b ≠ startIn) (rest : Bytes) :
    classify c (b :: rest) = .invalid := by
  simp [classify, h]

theorem classify_wrong_reserved (c : Config) {b : Byte} (h : b ≠ reservedByte) (rest : Bytes) :
    classify c (startIn :: b :: rest) = .invalid := by
  simp [classify, h]

/-- Settles O9: offsets 0 and 1 by their own lemmas, a part below offset 4 by `classify_before_length`, and the rest
by the three branches of `classify_header`. -/
theorem classifyChecksInOrder : Obligations.ClassifyChecksInOrder := by
  intro c b0 b1 a cmd n rest
  have header := classify_header c a cmd n rest
  refine ⟨fun h => classify_wrong_marker c h rest, rfl, fun h => classify_wrong_reserved c h rest,
    classify_before_length c, fun hcap => ?_, fun hcap hshort => ?_, fun hcap hfull => ?_⟩
  · exact header.trans (if_pos hcap)
  · rw [if_neg (Nat.not_lt.mpr hcap), if_pos hshort] at header
    exact header
  · rw [if_neg (Nat.not_lt.mpr hcap), if_neg (Nat.not_lt.mpr hfull)] at header
    exact header

/-! ## The destuff scan (R13, R105) -/

theorem collapsePairs_pair (rest : Bytes) :
    collapsePairs (startIn :: startIn :: rest) = startIn :: collapsePairs rest := by
  simp [collapsePairs]

theorem collapsePairs_of_not_pair {b b' : Byte} (h : ¬ (b = startIn ∧ b' = startIn)) (rest : Bytes) :
    collapsePairs (b :: b' :: rest) = b :: collapsePairs (b' :: rest) := by
  rw [collapsePairs, if_neg h]

theorem collapsePairs_of_ne {b : Byte} (h : b ≠ startIn) (rest : Bytes) :
    collapsePairs (b :: rest) = b :: collapsePairs rest := by
  cases rest with
  | nil => rfl
  | cons b' rest => exact collapsePairs_of_not_pair (fun hp => h hp.1) rest

/-- A scan keeps at least half of the bytes, since pairs do not overlap. -/
theorem collapsePairs_length_bounds (s : Bytes) :
    s.length ≤ 2 * (collapsePairs s).length ∧ (collapsePairs s).length ≤ s.length := by
  induction s using collapsePairs.induct with
  | case1 => simp [collapsePairs]
  | case2 b => simp [collapsePairs]
  | case3 b b' rest hp ih =>
    rw [collapsePairs, if_pos hp]
    simp only [List.length_cons]
    omega
  | case4 b b' rest hp ih =>
    rw [collapsePairs, if_neg hp]
    simp only [List.length_cons] at ih ⊢
    omega

theorem collapsePairs_of_pairless {s : Bytes} (h : ∀ x y : Bytes, s ≠ x ++ [startIn, startIn] ++ y) :
    collapsePairs s = s := by
  induction s using collapsePairs.induct with
  | case1 => rfl
  | case2 b => rfl
  | case3 b b' rest hp ih =>
    obtain ⟨rfl, rfl⟩ := hp
    exact absurd rfl (h [] rest)
  | case4 b b' rest hp ih =>
    have hrest : ∀ x y : Bytes, b' :: rest ≠ x ++ [startIn, startIn] ++ y :=
      fun x y he => h (b :: x) y (congrArg (b :: ·) he)
    rw [collapsePairs_of_not_pair hp, ih hrest]

/-- The scan undoes stuffing and then goes on as if it began there: no pair straddles the end of stuffed bytes. -/
theorem collapsePairs_stuff_append (s t : Bytes) : collapsePairs (stuff s ++ t) = s ++ collapsePairs t := by
  induction s using stuff.induct with
  | case1 => rfl
  | case2 rest ih => simp [stuff, collapsePairs_pair, ih]
  | case3 b rest hb ih => simp [stuff, hb, collapsePairs_of_ne hb, ih]

theorem collapsePairs_stuff (s : Bytes) : collapsePairs (stuff s) = s := by
  simpa [collapsePairs] using collapsePairs_stuff_append s []

theorem stuff_replicate_startIn (m : Nat) :
    stuff (List.replicate m startIn) = List.replicate (2 * m) startIn := by
  induction m with
  | zero => rfl
  | succ m ih => simp [List.replicate_succ, stuff, ih, Nat.mul_succ]

/-- Settles O11: a run of `2m` is a run of `m` stuffed, so that runs follow from the undoing of stuffing. -/
theorem pairCollapseOfRunsAndStuffing : Obligations.PairCollapseOfRunsAndStuffing := by
  refine ⟨fun m => ⟨?_, ?_⟩, fun s => collapsePairs_of_pairless, fun s b => collapsePairs_stuff_append s [b]⟩
  · exact stuff_replicate_startIn m ▸ collapsePairs_stuff _
  · have hodd := collapsePairs_stuff_append (List.replicate m startIn) [startIn]
    rw [stuff_replicate_startIn, ← List.replicate_succ'] at hodd
    exact hodd.trans List.replicate_succ'.symm

/-! ## The destuffed frame and the effective length (R104, R105) -/

theorem removeByteStuffing_frame {c : Config} (h : c.destuffScope = .frame) (f : InFrame) :
    (removeByteStuffing c f).1 = startIn :: collapsePairs f.bytes.tail := by
  simp [removeByteStuffing, h, InFrame.bytes]

theorem removeByteStuffing_payload {c : Config} (h : c.destuffScope = .payload) (f : InFrame) :
    (removeByteStuffing c f).1 = f.bytes.take 5 ++ (collapsePairs f.payload ++ [f.cs]) := by
  simp [removeByteStuffing, h]

/-- Under either scope the destuffed frame is no longer than the raw one, and more than half as long. -/
theorem removeByteStuffing_length_bounds (c : Config) (f : InFrame) :
    f.payload.length + 7 ≤ 2 * (removeByteStuffing c f).1.length ∧
      (removeByteStuffing c f).1.length ≤ f.payload.length + 6 := by
  cases hs : c.destuffScope with
  | frame =>
    have hscan := collapsePairs_length_bounds f.bytes.tail
    rw [List.length_tail, bytes_length] at hscan
    rw [removeByteStuffing_frame hs, List.length_cons]
    omega
  | payload =>
    have hscan := collapsePairs_length_bounds f.payload
    rw [removeByteStuffing_payload hs, List.length_append, List.length_append, List.length_take, bytes_length]
    simp only [List.length_singleton]
    omega

/-- The effective length is what the destuffed frame leaves beside five header bytes and the checksum. -/
theorem removeByteStuffing_effectiveLength (c : Config) (f : InFrame) :
    (removeByteStuffing c f).2 = (removeByteStuffing c f).1.length - 6 := by
  have hdef : (removeByteStuffing c f).2 =
      f.payload.length - (f.bytes.length - (removeByteStuffing c f).1.length) := rfl
  have hbounds := removeByteStuffing_length_bounds c f
  rw [hdef, bytes_length]
  omega

theorem effectivePayload_of_needsDestuff {c : Config} {kd : FrameKind} {f : InFrame}
    (h : needsDestuff c kd f.payload.length = true) :
    effectivePayload c kd f = ((removeByteStuffing c f).1.drop 5).take (removeByteStuffing c f).2 :=
  if_pos h

/-- Settles O13: with `N ≥ 7` at least 7 bytes are left, so that no subtraction is cut off at 0. -/
theorem effectiveLengthIsDeclaredMinusPairs : Obligations.EffectiveLengthIsDeclaredMinusPairs := by
  intro c kd f _
  have hbounds := removeByteStuffing_length_bounds c f
  have hlen := removeByteStuffing_effectiveLength c f
  constructor
  · intro h7
    rw [bytes_length]
    omega
  · intro hd
    rw [effectivePayload_of_needsDestuff hd, List.length_take, List.length_drop]
    omega

theorem lenByte_ne_startIn {f : InFrame} (hl : f.payload.length < 256) (h : f.payload.length ≠ 0x5C) :
    f.lenByte ≠ startIn := by
  intro he
  rw [← lenByte_toNat hl, he] at h
  exact h rfl

/-- Where no pair touches the header, destuffing a frame whose payload is `p` stuffed gives the frame with the raw
payload `p` under the same header. -/
theorem removeByteStuffing_stuffed (c : Config) {f : InFrame} {p : Bytes} (hp : f.payload = stuff p)
    (hlen : f.lenByte ≠ startIn) (hpair : ¬ (f.addr = startIn ∧ f.cmd = startIn)) :
    (removeByteStuffing c f).1 = f.bytes.take 5 ++ (p ++ [f.cs]) := by
  cases hs : c.destuffScope with
  | frame =>
    calc (removeByteStuffing c f).1
        = startIn :: collapsePairs (reservedByte :: f.addr :: f.cmd :: f.lenByte :: (stuff p ++ [f.cs])) := by
          rw [removeByteStuffing_frame hs, ← hp]; rfl
      _ = startIn :: reservedByte :: f.addr :: f.cmd :: f.lenByte :: collapsePairs (stuff p ++ [f.cs]) := by
          rw [collapsePairs_of_ne (by decide), collapsePairs_of_not_pair hpair,
            collapsePairs_of_not_pair (fun h => hlen h.2), collapsePairs_of_ne hlen]
      _ = f.bytes.take 5 ++ (p ++ [f.cs]) := by rw [collapsePairs_stuff_append]; rfl
  | payload => rw [removeByteStuffing_payload hs, hp, collapsePairs_stuff]

/-- Settles O12: the destuffed frame is the header, `p` and the checksum, so its effective length is `p`'s. -/
theorem destuffingRecoversThePayload : Obligations.DestuffingRecoversThePayload := by
  intro c kd f p hp hd hl hne hpair
  have hg := removeByteStuffing_stuffed c hp (lenByte_ne_startIn hl hne) hpair
  have hheader : (f.bytes.take 5).length = 5 := rfl
  have hlen : (removeByteStuffing c f).2 = p.length := by
    rw [removeByteStuffing_effectiveLength, hg]
    simp only [List.length_append, hheader, List.length_singleton]
    omega
  rw [effectivePayload_of_needsDestuff hd, hg, hlen, List.drop_left' hheader, List.take_left]

/-- Settles O14: each kind's threshold is looked up, and R80's values are put in for it. -/
theorem destuffThresholdPerKind : Obligations.DestuffThresholdPerKind := by
  intro c n
  refine ⟨fun hb hr ha kd => ?_, ?_⟩
  · cases kd <;> simp [needsDestuff, destuffThreshold, hb, hr, ha]
  · simp [needsDestuff, destuffThreshold]

/-! ## The decoders (R106 to R109) -/

/-- One full record at the head of a broadcast: a register value, or nothing where it is padding, R106. -/
theorem decodeBroadcast_record (a : RegAddr) (v : BitVec 16) (p : Bytes) :
    decodeBroadcast (recordBytes (a, v) ++ p) =
      if a = sentinel then decodeBroadcast p else ⟨a, v.signExtend 32⟩ :: decodeBroadcast p := by
  simp [recordBytes, bytesLe_two, decodeBroadcast, le16_split]

theorem decodeBroadcast_short {p : Bytes} (h : p.length < 4) : decodeBroadcast p = [] := by
  match p with
  | [] | [_] | [_, _] | [_, _, _] => rfl
  | _ :: _ :: _ :: _ :: _ => simp at h; omega

/-- Settles O15, by induction on the full records. -/
theorem broadcastKeepsEveryRecordButPadding : Obligations.BroadcastKeepsEveryRecordButPadding := by
  intro rs tail htail
  induction rs with
  | nil => exact decodeBroadcast_short htail
  | cons r rs ih =>
    obtain ⟨a, v⟩ := r
    rw [List.flatMap_cons, List.append_assoc, decodeBroadcast_record, ih]
    by_cases ha : a = sentinel
    · simp [ha, sentinel]
    · have hkept : (a != 0xFFFF) = true := bne_iff_ne.mpr ha
      rw [if_neg ha, List.filter_cons_of_pos (by exact hkept), List.map_cons]

theorem decodeReadResponse_eq_none_iff (p : Bytes) : decodeReadResponse p = none ↔ p.length < 6 := by
  match p with
  | [] | [_] | [_, _] | [_, _, _] | [_, _, _, _] | [_, _, _, _, _] | _ :: _ :: _ :: _ :: _ :: _ :: _ =>
    simp [decodeReadResponse]

theorem decodeReadResponse_fields (a : RegAddr) (v : Value) (rest : Bytes) :
    decodeReadResponse (bytesLe a 2 ++ bytesLe v 4 ++ rest) = some [⟨a, v⟩] :=
  calc decodeReadResponse (bytesLe a 2 ++ bytesLe v 4 ++ rest)
      = some [⟨le16 (a.setWidth 8) ((a >>> 8).setWidth 8), le32 (v.setWidth 8) ((v >>> 8).setWidth 8)
          ((v >>> 8 >>> 8).setWidth 8) ((v >>> 8 >>> 8 >>> 8).setWidth 8)⟩] := rfl
    _ = some [⟨a, v⟩] := by rw [le16_split, le32_split]

theorem decodeWriteAck_eq_none_iff (p : Bytes) : decodeWriteAck p = none ↔ p.length = 0 := by
  cases p <;> simp [decodeWriteAck]

/-- Settles O16: the short payloads and the fields of a read response, and the two cases of an acknowledge. -/
theorem fixedOffsetDecodersReadTheirBytes : Obligations.FixedOffsetDecodersReadTheirBytes :=
  ⟨fun p => (decodeReadResponse_eq_none_iff p).mpr, decodeReadResponse_fields, rfl, fun _ _ => rfl⟩

theorem leNat_lt (s : Bytes) : leNat s < 2 ^ (8 * s.length) := by
  induction s with
  | nil => simp [leNat]
  | cons b s ih =>
    have hb := b.isLt
    rw [leNat, List.length_cons, Nat.mul_succ, Nat.pow_add]
    omega

/-- The bytes of a field as a word of the field's own width hold the field's number. -/
theorem toNat_ofNat_leNat (s : Bytes) : (BitVec.ofNat (8 * s.length) (leNat s)).toNat = leNat s := by
  rw [BitVec.toNat_ofNat, Nat.mod_eq_of_lt (leNat_lt s)]

theorem fieldValue_unsigned_toNat {s : Bytes} (h : s.length ≤ 4) : (fieldValue false s).toNat = leNat s := by
  have hfits : leNat s < 2 ^ 32 :=
    (leNat_lt s).trans_le (Nat.pow_le_pow_right (by decide) (by omega))
  change ((BitVec.ofNat (8 * s.length) (leNat s)).setWidth 32).toNat = leNat s
  rw [BitVec.toNat_setWidth, toNat_ofNat_leNat, Nat.mod_eq_of_lt hfits]

theorem fieldValue_signed_toInt {s : Bytes} (h : s.length ≤ 4) :
    (fieldValue true s).toInt =
      if 2 * leNat s < 256 ^ s.length then (leNat s : Int) else (leNat s : Int) - 256 ^ s.length := by
  have hpow : 2 ^ (8 * s.length) = 256 ^ s.length := Nat.pow_mul 2 8 s.length
  change ((BitVec.ofNat (8 * s.length) (leNat s)).signExtend 32).toInt = _
  rw [BitVec.toInt_signExtend_of_le (by omega), BitVec.toInt_eq_toNat_cond, toNat_ofNat_leNat, hpow, Nat.cast_pow]
  rfl

theorem decodeAuxFields_eq_some {p : Bytes} {fds : List AuxField} (h : ∀ fd ∈ fds, fd.off + fd.w ≤ p.length) :
    decodeAuxFields p fds =
      some (fds.map (fun fd => ⟨fd.reg, fieldValue fd.sgn ((p.drop fd.off).take fd.w)⟩)) := by
  induction fds with
  | nil => rfl
  | cons fd fds ih =>
    obtain ⟨hfd, hrest⟩ := List.forall_mem_cons.mp h
    rw [decodeAuxFields, if_neg (Nat.not_lt.mpr hfd), ih hrest, List.map_cons]

theorem decodeAuxFields_eq_none_iff (p : Bytes) (fds : List AuxField) :
    decodeAuxFields p fds = none ↔ ∃ fd ∈ fds, p.length < fd.off + fd.w := by
  induction fds with
  | nil => simp [decodeAuxFields]
  | cons fd fds ih =>
    rw [List.exists_mem_cons_iff, ← ih, decodeAuxFields]
    by_cases hfd : p.length < fd.off + fd.w
    · simp [hfd]
    · cases h : decodeAuxFields p fds <;> simp [hfd]

/-- Settles O17: the field's number from its bytes, and the loop by induction on the list of fields. -/
theorem auxiliaryDecodeReadsOnlyItsFields : Obligations.AuxiliaryDecodeReadsOnlyItsFields := by
  constructor
  · intro s hs
    have hle : s.length ≤ 4 := by omega
    exact ⟨fieldValue_unsigned_toNat hle, fieldValue_signed_toInt hle⟩
  · exact fun c p => ⟨decodeAuxFields_eq_none_iff p c.auxFields, decodeAuxFields_eq_some⟩

/-! ## Dispatch on the kind (R110, R223) -/

theorem frameEvent_eq_decodeError_iff (kd kd' : FrameKind) (b : Option Body) :
    frameEvent kd b = .decodeError kd' ↔ kd' = kd ∧ b = none := by
  cases b <;> simp [frameEvent, eq_comm]

/-- Settles O18: each kind's error condition is its decoder's. -/
theorem decodeErrorsAreExactlyTheShortPayloads : Obligations.DecodeErrorsAreExactlyTheShortPayloads := by
  intro c d f kd
  refine ⟨?_, rfl, rfl⟩
  cases d with
  | broadcast | other => simp [decodeFrame]
  | readResp =>
    simp [decodeFrame, frameEvent_eq_decodeError_iff, decodeReadResponse_eq_none_iff, DataKind.kind]
  | writeResp => simp [decodeFrame, frameEvent_eq_decodeError_iff, decodeWriteAck_eq_none_iff, DataKind.kind]
  | auxBroadcast =>
    simp [decodeFrame, frameEvent_eq_decodeError_iff, decodeAuxBroadcast, decodeAuxFields_eq_none_iff,
      DataKind.kind]

/-- Settles O19: the payload is `effectivePayload`'s own choice, and a decoder's result goes through `frameEvent`. -/
theorem decodeFrameDispatchesOnTheKind : Obligations.DecodeFrameDispatchesOnTheKind := by
  intro c f
  refine ⟨fun _ => rfl, rfl, fun _ h => ?_, fun h => ?_, fun _ h => ?_, fun h => ?_, fun _ h => ?_, fun h => ?_,
    rfl⟩ <;> simp [decodeFrame, DataKind.kind, h, frameEvent]

/-! ## The built requests (R73, R82, R111, R112) -/

/-- `bytesLe` as the bytes of `v` at bit offsets 0, 8, 16 and on. -/
theorem bytesLe_eq_extract {w : Nat} (v : BitVec w) (n : Nat) :
    bytesLe v n = (List.range n).map (fun j => v.extractLsb' (8 * j) 8) := by
  induction n generalizing v with
  | zero => rfl
  | succ n ih =>
    have hlow : v.setWidth 8 = v.extractLsb' (8 * 0) 8 := by
      apply BitVec.eq_of_toNat_eq
      simp
    have hrest : ∀ j, (v >>> 8).extractLsb' (8 * j) 8 = v.extractLsb' (8 * (j + 1)) 8 := by
      intro j
      apply BitVec.eq_of_toNat_eq
      simp [← Nat.shiftRight_add, Nat.mul_succ, Nat.add_comm]
    rw [bytesLe, ih, List.range_succ_eq_map, List.map_cons, List.map_map, hlow]
    simp only [hrest, Function.comp_def, Nat.succ_eq_add_one]

theorem buildReadRequest_layout (c : Config) (a : RegAddr) :
    buildReadRequest c a = [0xC0, c.cmdReadReq, 0x02, a.extractLsb' 0 8, a.extractLsb' 8 8,
      0xC2 ^^^ c.cmdReadReq ^^^ a.extractLsb' 0 8 ^^^ a.extractLsb' 8 8] := by
  have hbytes : buildReadRequest c a = [0xC0, c.cmdReadReq, 0x02, a.extractLsb' 0 8, a.extractLsb' 8 8] ++
      [xorsum [0xC0, c.cmdReadReq, 0x02, a.extractLsb' 0 8, a.extractLsb' 8 8]] := by
    rw [buildReadRequest, bytesLe_eq_extract]
    rfl
  have hcs : ∀ q a0 a1 : Byte, xorsum [0xC0, q, 0x02, a0, a1] = 0xC2 ^^^ q ^^^ a0 ^^^ a1 := fun q a0 a1 =>
    calc xorsum [0xC0, q, 0x02, a0, a1] = xorsum [0xC0, 0x02, q, a0, a1] := xorsum_perm (.cons _ (.swap ..))
      _ = 0xC2 ^^^ q ^^^ a0 ^^^ a1 := rfl
  rw [hbytes, hcs]
  rfl

/-- The nine bytes of a write request under the checksum: header, address and value field. -/
def writeRequestBody (c : Config) (a : RegAddr) (v : Value) (n : Nat) : Bytes :=
  [startOut, c.cmdWriteReq, 0x06] ++ bytesLe a 2 ++ valueField v n

theorem buildWriteRequest_eq_body (c : Config) (a : RegAddr) (v : Value) (n : Nat) (sgn : Bool) :
    buildWriteRequest c a v n sgn = writeRequestBody c a v n ++ [xorsum (writeRequestBody c a v n)] := rfl

theorem writeRequestBody_length (c : Config) (a : RegAddr) (v : Value) {n : Nat} (h : n ≤ 4) :
    (writeRequestBody c a v n).length = 9 := by
  simp [writeRequestBody, valueField, bytesLe_length]
  omega

theorem writeRequestBody_layout (c : Config) (a : RegAddr) (v : Value) {n : Nat} (h : n = 1 ∨ n = 2 ∨ n = 4) :
    writeRequestBody c a v n =
      [0xC0, c.cmdWriteReq, 0x06, a.extractLsb' 0 8, a.extractLsb' 8 8, v.extractLsb' 0 8,
        if 2 ≤ n then v.extractLsb' 8 8 else 0, if n = 4 then v.extractLsb' 16 8 else 0,
        if n = 4 then v.extractLsb' 24 8 else 0] := by
  rcases h with rfl | rfl | rfl <;>
    simp [writeRequestBody, valueField, bytesLe_eq_extract, List.range_succ, startOut, List.replicate_succ]

/-- Settles O20: the checksum closes the nine bytes of the body, so its own value is fixed by a zero XOR. -/
theorem builtRequestsHaveTheirLayout : Obligations.BuiltRequestsHaveTheirLayout := by
  intro c a v
  refine ⟨buildReadRequest_layout c a, fun n sgn sgn' hn => ⟨rfl, ?_, ?_, ?_⟩⟩
  all_goals
    have hlen := writeRequestBody_length c a v (n := n) (by omega)
    rw [buildWriteRequest_eq_body]
  · exact xorsum_append_xorsum _
  · rw [List.length_append, hlen, List.length_singleton]
  · rw [List.take_left' hlen, writeRequestBody_layout c a v hn]

end Sys2Proof

namespace Sys2Proof.Machine

open Sys2Proof

/-! ## Queued requests on the wire (R150, R151) -/

theorem transmitStep_readToken {s : State} {w : Bytes} {q : List Bytes} (hst : s.state = .readTokenReceived)
    (hq : s.rdq = w :: q) (hok : s.nextTxFails = false) :
    transmitStep w s =
      .next { s with state := .waitStart, buf := [], k := none, pend := none, ecause := none, rdq := q,
                     txTrace := s.txTrace ++ w, txAnswers := s.txAnswers.tail } := by
  have hsend : transmitStep w s = .next s.serveReadToken := by simp [transmitStep, hst, hq, State.tokenAnswer]
  rw [hsend, State.serveReadToken, State.transmit_ok (by exact hok), hq]
  rfl

theorem transmitStep_writeToken {s : State} {w : Bytes} {q : List Bytes} (hst : s.state = .writeTokenReceived)
    (hq : s.wrq = w :: q) (hok : s.nextTxFails = false) :
    transmitStep w s =
      .next { s with state := .waitStart, buf := [], k := none, pend := none, ecause := none, wrq := q,
                     txTrace := s.txTrace ++ w, txAnswers := s.txAnswers.tail } := by
  have hsend : transmitStep w s = .next s.serveWriteToken := by simp [transmitStep, hst, hq, State.tokenAnswer]
  rw [hsend, State.serveWriteToken, State.transmit_ok (by exact hok), hq]
  rfl

/-- Settles O34: either request's meaning is the TX step of its word, whichever token state asks for it. -/
theorem queuedRequestsGoOutVerbatim : Obligations.QueuedRequestsGoOutVerbatim := by
  intro s a v q i w hok hi
  have hword : encode s.cfg i = .tx w := by
    rcases hi with ⟨rfl, rfl⟩ | ⟨rfl, rfl⟩ <;> rfl
  rw [exec_tx hword]
  exact ⟨fun hst hq => transmitStep_readToken hst hq hok, fun hst hq => transmitStep_writeToken hst hq hok⟩

end Sys2Proof.Machine
end

section
/-! PROOFS. The family 41_bus_arbiter.md: the TX steps by DEV's answer (R54, R146 to R152), the inbound frames and
outbound words (R147 to R151, R155), ARB's steps in its input and delivery states (R142 to R145, R149, R153), and
the transition table (R140, R141, R155, R157). -/

namespace Sys2Proof.Machine

open Sys2Proof

namespace State

/-! ## A TX write by DEV's answer (R54, R152) -/

theorem transmit_eq_sentOk {s : State} (h : s.nextTxFails = false) (w : Bytes) (done : State → State) :
    transmit w done s = done (s.sentOk w) :=
  transmit_ok h w done

theorem transmit_eq_sentFail {s : State} {n : Nat} {rest : List TxAnswer} (h : s.txAnswers = .fail n :: rest)
    (w : Bytes) (done : State → State) : transmit w done s = s.sentFail w n := by
  rw [transmit_fail h, sentFail, h]
  rfl

theorem ackAndDecode_ok {s : State} (h : s.nextTxFails = false) (d : DataKind) (f : InFrame) :
    s.ackAndDecode d f = enterDeliver (decodeFrame s.cfg d f) (s.sentOk [0x06]) :=
  transmit_eq_sentOk h _ _

theorem sendNak_ok {s : State} (h : s.nextTxFails = false) : s.sendNak = enterWaitStart (s.sentOk [0x15]) :=
  transmit_eq_sentOk h _ _

theorem serveReadToken_ok {s : State} (h : s.nextTxFails = false) :
    s.serveReadToken = enterWaitStart { s.sentOk (s.rdq.headD [0x06]) with rdq := s.rdq.tail } := by
  rw [serveReadToken, tokenAnswer_eq]
  exact transmit_eq_sentOk (s := { s with rdq := s.rdq.tail }) h _ _

theorem serveWriteToken_ok {s : State} (h : s.nextTxFails = false) :
    s.serveWriteToken = enterWaitStart { s.sentOk (s.wrq.headD [0x06]) with wrq := s.wrq.tail } := by
  rw [serveWriteToken, tokenAnswer_eq]
  exact transmit_eq_sentOk (s := { s with wrq := s.wrq.tail }) h _ _

theorem serveReadToken_fail {s : State} {n : Nat} {rest : List TxAnswer} (h : s.txAnswers = .fail n :: rest) :
    s.serveReadToken = { s.sentFail (s.rdq.headD [0x06]) n with rdq := s.rdq.tail } := by
  rw [serveReadToken, tokenAnswer_eq]
  exact transmit_eq_sentFail (s := { s with rdq := s.rdq.tail }) h _ _

theorem serveWriteToken_fail {s : State} {n : Nat} {rest : List TxAnswer} (h : s.txAnswers = .fail n :: rest) :
    s.serveWriteToken = { s.sentFail (s.wrq.headD [0x06]) n with wrq := s.wrq.tail } := by
  rw [serveWriteToken, tokenAnswer_eq]
  exact transmit_eq_sentFail (s := { s with wrq := s.wrq.tail }) h _ _

end State

/-! ## The inbound frames in every arbiter state (R147, R148, R150, R151) -/

theorem exec_data_eq_receiveData (d : DataKind) (f : InFrame) (s : State) :
    exec (rxInstr d.kind f) s = receiveData d f s := by
  cases d <;> rfl

/-- Everything a data frame can do, R148. -/
theorem receiveData_cases (d : DataKind) (f : InFrame) (s : State) :
    (s.state = .okMessage ∧ receiveData d f s = .next (s.ackAndDecode d f)) ∨
    (s.state ≠ .okMessage ∧ receiveData d f s = .fault .notEnabled) := by
  unfold receiveData
  split
  next hst => exact .inl ⟨hst, rfl⟩
  next hst => exact .inr ⟨hst, rfl⟩

/-- Everything a read token can do, R147 and R150. -/
theorem exec_readToken_cases (f : InFrame) (s : State) :
    (s.state = .okMessage ∧ exec (.rxReadToken f) s = .next { s with state := .readTokenReceived }) ∨
    (s.state = .readTokenReceived ∧ exec (.rxReadToken f) s = .next s.serveReadToken) ∨
    (s.state ≠ .okMessage ∧ s.state ≠ .readTokenReceived ∧ exec (.rxReadToken f) s = .fault .notEnabled) := by
  simp only [exec, execRxReadToken]
  split
  next hst => exact .inl ⟨hst, rfl⟩
  next hst => exact .inr (.inl ⟨hst, rfl⟩)
  next hok hread => exact .inr (.inr ⟨hok, hread, rfl⟩)

/-- Everything a write token can do, R147 and R151. -/
theorem exec_writeToken_cases (f : InFrame) (s : State) :
    (s.state = .okMessage ∧ exec (.rxWriteToken f) s = .next { s with state := .writeTokenReceived }) ∨
    (s.state = .writeTokenReceived ∧ exec (.rxWriteToken f) s = .next s.serveWriteToken) ∨
    (s.state ≠ .okMessage ∧ s.state ≠ .writeTokenReceived ∧ exec (.rxWriteToken f) s = .fault .notEnabled) := by
  simp only [exec, execRxWriteToken]
  split
  next hst => exact .inl ⟨hst, rfl⟩
  next hst => exact .inr (.inl ⟨hst, rfl⟩)
  next hok hwrite => exact .inr (.inr ⟨hok, hwrite, rfl⟩)

theorem exec_readToken_served {s : State} (h : s.state = .readTokenReceived) (f : InFrame) :
    exec (.rxReadToken f) s = .next s.serveReadToken := by
  simp [exec, execRxReadToken, h]

theorem exec_writeToken_served {s : State} (h : s.state = .writeTokenReceived) (f : InFrame) :
    exec (.rxWriteToken f) s = .next s.serveWriteToken := by
  simp [exec, execRxWriteToken, h]

/-! ## The outbound words in the states that send them (R146, R148, R150, R151) -/

theorem exec_nak {s : State} (h : s.state = .crcFailure) : exec .txNak s = .next s.sendNak := by
  simp [exec, execTxNak, transmitStep, h]

theorem transmitStep_ack {s : State} {d : DataKind} {f : InFrame} (h : s.state = .okMessage)
    (hk : s.k.bind FrameKind.toData = some d) (hf : InFrame.parse s.buf = some f) :
    transmitStep [0x06] s = .next (s.ackAndDecode d f) := by
  simp [transmitStep, h, hk, hf, ackByte]

theorem transmitStep_readAnswer {s : State} (h : s.state = .readTokenReceived) :
    transmitStep (s.rdq.headD [0x06]) s = .next s.serveReadToken := by
  simp [transmitStep, h, State.tokenAnswer_eq]

theorem transmitStep_writeAnswer {s : State} (h : s.state = .writeTokenReceived) :
    transmitStep (s.wrq.headD [0x06]) s = .next s.serveWriteToken := by
  simp [transmitStep, h, State.tokenAnswer_eq]

/-- Settles O35: in each of the three states the word and the frame it answers have one meaning. -/
theorem outboundWordsAreTheStepsTheyAnswer : Obligations.OutboundWordsAreTheStepsTheyAnswer := by
  intro s i w f henc
  rw [exec_tx henc]
  refine ⟨?_, ?_, ?_⟩
  · rintro hst rfl
    rw [transmitStep_readAnswer hst, exec_readToken_served hst]
  · rintro hst rfl
    rw [transmitStep_writeAnswer hst, exec_writeToken_served hst]
  · rintro d hst rfl hk hf
    rw [transmitStep_ack (d := d) hst (by simp [hk]) hf, exec_data hst]

/-- Settles O29: from OK_MESSAGE to the token's state, and there the one write that DEV answers TxOk. -/
theorem tokensServeOneFrameOrAck : Obligations.TokensServeOneFrameOrAck := by
  refine fun s f => ⟨fun hst => ⟨exec_readToken hst f, exec_writeToken hst f⟩, fun hok => ⟨?_, ?_⟩⟩
  · intro hst
    rw [exec_readToken_served hst, State.serveReadToken_ok hok]
    rfl
  · intro hst
    rw [exec_writeToken_served hst, State.serveWriteToken_ok hok]
    rfl

/-- Settles O30: each kind's meaning is the one ACK and decode. -/
theorem dataFramesAreAckedAndDecoded : Obligations.DataFramesAreAckedAndDecoded := by
  intro s f hst hok after
  have hdata : ∀ d : DataKind, exec (rxInstr d.kind f) s = .next (after d) := fun d => by
    rw [exec_data hst, State.ackAndDecode_ok hok]
    rfl
  exact ⟨hdata .broadcast, hdata .readResp, hdata .writeResp, hdata .auxBroadcast, hdata .other⟩

/-- Settles O31: each of the four TX steps ends in `sentFail`, the token's with the head already popped. -/
theorem txFailureEntersTransportError : Obligations.TxFailureEntersTransportError := by
  intro s f d n rest ha
  refine ⟨fun hst => ?_, fun hst => ?_, fun hst => ?_, fun hst => ?_⟩
  · rw [exec_data hst, State.ackAndDecode, State.transmit_eq_sentFail ha]
    rfl
  · rw [exec_nak hst, State.sendNak, State.transmit_eq_sentFail ha]
    rfl
  · rw [exec_readToken_served hst, State.serveReadToken_fail ha]
  · rw [exec_writeToken_served hst, State.serveWriteToken_fail ha]

/-- Settles O32: CRC_FAILURE's one write, answered TxOk. -/
theorem nakAnswersAChecksumFailure : Obligations.NakAnswersAChecksumFailure := by
  intro s hst hok
  rw [exec_nak hst, State.sendNak_ok hok]
  rfl

/-- Settles O33: ACK is the data frame's step in OK_MESSAGE, and the token's step where it is the token's answer. -/
theorem ackAnswersDataAndIdleTokens : Obligations.AckAnswersDataAndIdleTokens := by
  intro s f d hok
  rw [exec_tx (i := .txAck) (w := [0x06]) rfl]
  refine ⟨fun hst hk hf => ?_, fun hst hq => ?_, fun hst hq => ?_⟩
  · rw [transmitStep_ack (d := d) hst (by simp [hk]) hf, State.ackAndDecode_ok hok]
    rfl
  · rw [← hq, transmitStep_readAnswer hst, State.serveReadToken_ok hok]
    rfl
  · rw [← hq, transmitStep_writeAnswer hst, State.serveWriteToken_ok hok]
    rfl

/-! ## What a frame or a word can do at all (R140, R155) -/

/-- `t` is what the meaning of an inbound frame or an outbound word makes of `s`. -/
inductive WireStep (s : State) : State → Prop
  | readToken : s.state = .okMessage → WireStep s { s with state := .readTokenReceived }
  | writeToken : s.state = .okMessage → WireStep s { s with state := .writeTokenReceived }
  | data (d f) : s.state = .okMessage → WireStep s (s.ackAndDecode d f)
  | nak : s.state = .crcFailure → WireStep s s.sendNak
  | serveRead : s.state = .readTokenReceived → WireStep s s.serveReadToken
  | serveWrite : s.state = .writeTokenReceived → WireStep s s.serveWriteToken

/-- Everything the TX step of a word can do: nothing, or the step where `w` is the word that ARB sends next. -/
theorem transmitStep_cases (w : Bytes) (s : State) :
    transmitStep w s = .fault .notEnabled ∨
    (s.txWord = some w ∧ ∃ t, transmitStep w s = .next t ∧ WireStep s t) := by
  cases hst : s.state with
  | crcFailure =>
    by_cases hw : w = [nakByte]
    · exact .inr ⟨by simp [State.txWord, hst, hw], _, by simp [transmitStep, hst, hw], .nak hst⟩
    · exact .inl (by simp [transmitStep, hst, hw])
  | okMessage =>
    cases hk : s.k.bind FrameKind.toData with
    | none => exact .inl (by simp [transmitStep, hst, hk])
    | some d =>
      cases hf : InFrame.parse s.buf with
      | none => exact .inl (by simp [transmitStep, hst, hk, hf])
      | some f =>
        by_cases hw : w = [ackByte]
        · exact .inr ⟨by simp [State.txWord, hst, hk, hw], _, hw ▸ transmitStep_ack hst hk hf, .data d f hst⟩
        · exact .inl (by simp [transmitStep, hst, hk, hf, hw])
  | readTokenReceived =>
    by_cases hw : w = State.tokenAnswer s.rdq
    · exact .inr ⟨by simp [State.txWord, hst, hw], _, by simp [transmitStep, hst, hw], .serveRead hst⟩
    · exact .inl (by simp [transmitStep, hst, hw])
  | writeTokenReceived =>
    by_cases hw : w = State.tokenAnswer s.wrq
    · exact .inr ⟨by simp [State.txWord, hst, hw], _, by simp [transmitStep, hst, hw], .serveWrite hst⟩
    · exact .inl (by simp [transmitStep, hst, hw])
  | waitStart | waitData | deliver | transportError | stopped => exact .inl (by simp [transmitStep, hst])

/-- Settles O36: what is left of each meaning outside the states that have it. -/
theorem nothingIsSentUnprompted : Obligations.NothingIsSentUnprompted := by
  refine fun s f => ⟨fun hok d => ?_, fun hok hread => ?_, fun hok hwrite => ?_, fun i w henc hw => ?_⟩
  · rw [exec_data_eq_receiveData]
    rcases receiveData_cases d f s with ⟨hst, -⟩ | ⟨-, he⟩
    · exact absurd hst hok
    · exact he
  · rcases exec_readToken_cases f s with ⟨hst, -⟩ | ⟨hst, -⟩ | ⟨-, -, he⟩
    · exact absurd hst hok
    · exact absurd hst hread
    · exact he
  · rcases exec_writeToken_cases f s with ⟨hst, -⟩ | ⟨hst, -⟩ | ⟨-, -, he⟩
    · exact absurd hst hok
    · exact absurd hst hwrite
    · exact he
  · rw [exec_tx henc]
    rcases transmitStep_cases w s with he | ⟨hword, -⟩
    · exact he
    · exact absurd hword hw

theorem transmitStep_wireStep {w : Bytes} {s t : State} (h : transmitStep w s = .next t) : WireStep s t := by
  rcases transmitStep_cases w s with he | ⟨-, u, he, hu⟩ <;> cases he.symm.trans h
  exact hu

theorem receiveData_wireStep {d : DataKind} {f : InFrame} {s t : State} (h : receiveData d f s = .next t) :
    WireStep s t := by
  rcases receiveData_cases d f s with ⟨hst, he⟩ | ⟨-, he⟩ <;> cases he.symm.trans h
  exact .data d f hst

/-- The inversion of every meaning but the host commands'. -/
theorem exec_wireStep {i : Instr} {s t : State} (hi : i.isHost = false) (h : exec i s = .next t) : WireStep s t := by
  cases i with
  | connect | disconnect | enqRead _ | enqWrite _ | buildRead _ | buildWrite _ _ _ _ | status | eventPop
  | reservedOp _ => cases hi
  | rxReadToken f =>
    rcases exec_readToken_cases f s with ⟨hst, he⟩ | ⟨hst, he⟩ | ⟨-, -, he⟩ <;> cases he.symm.trans h
    · exact .readToken hst
    · exact .serveRead hst
  | rxWriteToken f =>
    rcases exec_writeToken_cases f s with ⟨hst, he⟩ | ⟨hst, he⟩ | ⟨-, -, he⟩ <;> cases he.symm.trans h
    · exact .writeToken hst
    · exact .serveWrite hst
  | rxBroadcast f | rxReadResp f | rxWriteResp f | rxAuxBroadcast f | rxOther f => exact receiveData_wireStep h
  | txReadReq _ | txWriteReq _ _ | txAck | txNak => exact transmitStep_wireStep h

/-! ## The frame of the frames and words (R146 to R152) -/

/-- From `s` to `t` nothing changes but ARB's own state and latches, the TX trace and DEV's answers. -/
def KeepsPorts (s t : State) : Prop :=
  t.cfg = s.cfg ∧ t.cancelReq = s.cancelReq ∧ t.evq = s.evq ∧ t.rxPort = s.rxPort ∧ t.sched = s.sched ∧
  t.popped = s.popped ∧ t.resp = s.resp ∧ t.rdq = s.rdq ∧ t.wrq = s.wrq

theorem keepsPorts_enterWaitStart (s : State) : KeepsPorts s (State.enterWaitStart s) := by simp [KeepsPorts]

theorem keepsPorts_enterDeliver (e : Event) (s : State) : KeepsPorts s (State.enterDeliver e s) := by
  simp [KeepsPorts]

/-- A TX write keeps what going on as `done` says keeps, whatever DEV answers. -/
theorem keepsPorts_transmit {done : State → State} (hdone : ∀ u, KeepsPorts u (done u)) (w : Bytes) (s : State) :
    KeepsPorts s (State.transmit w done s) := by
  rcases State.transmit_cases s w done with ⟨-, he⟩ | ⟨n, rest, -, he⟩ <;> rw [he]
  · exact hdone _
  · simp [KeepsPorts]

/-- A TX write writes its word, or the part of it that DEV reports, R54. -/
theorem writes_transmit {done : State → State} (hdone : ∀ u, (done u).txTrace = u.txTrace) (w : Bytes) (s : State) :
    Writes w s (State.transmit w done s) := by
  rcases State.transmit_cases s w done with ⟨-, he⟩ | ⟨n, rest, ha, he⟩ <;> rw [he]
  · exact writes_of_ok (hdone _)
  · exact writes_of_fail ha rfl

theorem WireStep.keepsPorts {s t : State} (h : WireStep s t) :
    KeepsPorts s t ∨
    (s.state = .readTokenReceived ∧ KeepsPorts { s with rdq := s.rdq.tail } t) ∨
    (s.state = .writeTokenReceived ∧ KeepsPorts { s with wrq := s.wrq.tail } t) := by
  cases h with
  | readToken _ | writeToken _ => exact .inl (by simp [KeepsPorts])
  | data d f _ => exact .inl (keepsPorts_transmit (keepsPorts_enterDeliver _) _ s)
  | nak _ => exact .inl (keepsPorts_transmit keepsPorts_enterWaitStart _ s)
  | serveRead hst => exact .inr (.inl ⟨hst, keepsPorts_transmit keepsPorts_enterWaitStart _ _⟩)
  | serveWrite hst => exact .inr (.inr ⟨hst, keepsPorts_transmit keepsPorts_enterWaitStart _ _⟩)

/-- A token's answer is ACK or the head of its queue, R150 and R151. -/
theorem tokenAnswer_cases (q : List Bytes) : State.tokenAnswer q = [0x06] ∨ State.tokenAnswer q ∈ q.head? := by
  cases q with
  | nil => exact .inl rfl
  | cons f q => exact .inr rfl

theorem WireStep.txTrace_cases {s t : State} (h : WireStep s t) :
    t.txTrace = s.txTrace ∨
    ∃ w, (w = [0x06] ∨ w = [0x15] ∨ w ∈ s.rdq.head? ∨ w ∈ s.wrq.head?) ∧ Writes w s t := by
  cases h with
  | readToken _ | writeToken _ => exact .inl rfl
  | data d f _ => exact .inr ⟨_, .inl rfl, writes_transmit (State.enterDeliver_txTrace _) [0x06] s⟩
  | nak _ => exact .inr ⟨_, .inr (.inl rfl), writes_transmit State.enterWaitStart_txTrace [0x15] s⟩
  | serveRead _ =>
    exact .inr ⟨_, (tokenAnswer_cases s.rdq).imp_right fun hq => .inr (.inl hq),
      writes_transmit (s := { s with rdq := s.rdq.tail }) State.enterWaitStart_txTrace _⟩
  | serveWrite _ =>
    exact .inr ⟨_, (tokenAnswer_cases s.wrq).imp_right fun hq => .inr (.inr hq),
      writes_transmit (s := { s with wrq := s.wrq.tail }) State.enterWaitStart_txTrace _⟩

/-- Settles O37: the ports by `WireStep.keepsPorts`, the TX trace by `WireStep.txTrace_cases`. -/
theorem frameAndWordSteps : Obligations.FrameAndWordSteps := by
  intro i s t hi h
  have hstep := exec_wireStep hi h
  have htx : t.txTrace = s.txTrace ∨ ∃ w p, (w = [0x06] ∨ w = [0x15] ∨ w ∈ s.rdq.head? ∨ w ∈ s.wrq.head?) ∧
      p <+: w ∧ t.txTrace = s.txTrace ++ p :=
    hstep.txTrace_cases.imp_right fun ⟨w, hw, p, hp, ht, _⟩ => ⟨w, p, hw, hp, ht⟩
  rcases hstep.keepsPorts with hkeep | ⟨hst, hkeep⟩ | ⟨hst, hkeep⟩ <;>
    obtain ⟨hcfg, hcr, hevq, hrx, hsch, hpop, hresp, hrdq, hwrq⟩ := hkeep
  · exact ⟨hcfg, hcr, hevq, hrx, hsch, hpop, hresp, .inl hrdq, .inl hwrq, htx⟩
  · exact ⟨hcfg, hcr, hevq, hrx, hsch, hpop, hresp, .inr ⟨hst, hrdq⟩, .inl hwrq, htx⟩
  · exact ⟨hcfg, hcr, hevq, hrx, hsch, hpop, hresp, .inl hrdq, .inr ⟨hst, hwrq⟩, htx⟩

/-! ## ARB's move runs an instruction (R140, R146 to R151) -/

/-- A Valid buffer that parses decodes on the RX port. -/
theorem decode_rx_of_frameIs {s : State} {kd : FrameKind} (h : s.frameIs (.valid kd) = true) :
    ∃ f, InFrame.parse s.buf = some f ∧ decode s.cfg (.rx s.buf) = .ok (rxInstr kd f) := by
  obtain ⟨hv, hp⟩ := (s.frameIs_iff _).mp h
  obtain ⟨f, hf⟩ := Option.isSome_iff_exists.mp hp
  exact ⟨f, hf, by simp [decode, decodeRx, hv, hf]⟩

theorem arbMove_ok_decodes {s : State} (hi : s.inv = true) (hst : s.state = .okMessage) :
    ∃ i, decode s.cfg (.rx s.buf) = .ok i ∧ arbMove s = exec i s := by
  obtain ⟨-, -, hl⟩ := (State.inv_iff s).mp hi
  obtain ⟨kd, hk, hframe⟩ := s.okWf_iff.mp ((State.latchesWf_okMessage hst).mp hl).1
  obtain ⟨f, hf, hdec⟩ := decode_rx_of_frameIs hframe
  exact ⟨_, hdec, arbMove_ok hst hk hf⟩

/-- What decodes on the TX port has the TX step of the word it decodes from. -/
theorem exec_of_decode_tx {s : State} {i : Instr} {w : Bytes} (h : decode s.cfg (.tx w) = .ok i) :
    exec i s = transmitStep w s :=
  exec_tx (encode_of_decodeTx (decode_tx_eq_ok_iff.mp h))

theorem arbMove_read_runs {s : State} (hst : s.state = .readTokenReceived) (f : InFrame) :
    arbMove s = exec (.rxReadToken f) s ∧
    ∀ i, decode s.cfg (.tx (s.rdq.headD [0x06])) = .ok i → arbMove s = exec i s :=
  ⟨(arbMove_read hst).trans (exec_readToken_served hst f).symm, fun _ hd =>
    (arbMove_read hst).trans (transmitStep_readAnswer hst ▸ (exec_of_decode_tx hd).symm)⟩

theorem arbMove_write_runs {s : State} (hst : s.state = .writeTokenReceived) (f : InFrame) :
    arbMove s = exec (.rxWriteToken f) s ∧
    ∀ i, decode s.cfg (.tx (s.wrq.headD [0x06])) = .ok i → arbMove s = exec i s :=
  ⟨(arbMove_write hst).trans (exec_writeToken_served hst f).symm, fun _ hd =>
    (arbMove_write hst).trans (transmitStep_writeAnswer hst ▸ (exec_of_decode_tx hd).symm)⟩

/-- Settles O39, by the arbiter's state in the state that ARB's move runs in. -/
theorem stepRunsArbsInstruction : Obligations.StepRunsArbsInstruction := by
  intro s rest f hi hsch
  obtain ⟨hc, -, -⟩ := (State.inv_iff s).mp hi
  rw [step_arb hc hsch]
  exact ⟨fun hst => arbMove_ok_decodes (s := { s with sched := rest }) hi hst,
    fun hst => (arbMove_crc (by exact hst)).trans (exec_nak (by exact hst)).symm,
    fun hst => arbMove_read_runs (s := { s with sched := rest }) hst f,
    fun hst => arbMove_write_runs (s := { s with sched := rest }) hst f⟩

/-! ## ARB's move in an input state (R142 to R145) -/

theorem step_input {s : State} {rest : List Move} (hc : s.cfg.wf = true) (hsch : s.sched = .arb :: rest)
    (hst : s.state = .waitStart ∨ s.state = .waitData) : step s = inputStep { s with sched := rest } :=
  (step_arb hc hsch).trans (arbMove_input hst)

theorem inputStep_cancel {s : State} (h : s.cancelReq = true) : inputStep s = .next (State.enterStopped s) := by
  simp [inputStep, h]

theorem inputStep_fail {s : State} {port : List RxInput} (h : s.cancelReq = false) (hp : s.rxPort = .fail :: port) :
    inputStep s = .next (State.enterTransportError .rx { s with rxPort := port }) := by
  simp [inputStep, h, hp]

theorem inputStep_byte {s : State} {b : Byte} {port : List RxInput} (h : s.cancelReq = false)
    (hp : s.rxPort = .byte b :: port) : inputStep s = takeByte b { s with rxPort := port } := by
  simp [inputStep, h, hp]

/-- Settles O40: the cancellation is looked at before the port. -/
theorem cancelWinsInAnInputState : Obligations.CancelWinsInAnInputState := by
  intro s rest hc hsch hcr hst
  rw [step_input hc hsch hst, inputStep_cancel (by exact hcr)]
  rfl

/-- Settles O43: the failure at the head of the port is the one RX input taken. -/
theorem rxFailureEntersTransportError : Obligations.RxFailureEntersTransportError := by
  intro s rest port hc hsch hcr hst hp
  rw [step_input hc hsch hst, inputStep_fail (by exact hcr) (by exact hp)]
  rfl

/-- R143: every byte but the start marker is discarded. -/
theorem State.startByte_other {b : Byte} (h : b ≠ 0x5C) (s : State) : State.startByte b s = s :=
  if_neg h

/-- Settles O41, by whether the byte is the start marker. -/
theorem waitStartHuntsForTheMarker : Obligations.WaitStartHuntsForTheMarker := by
  intro s rest b port hc hsch hcr hst hp
  rw [step_input hc hsch (.inl hst), inputStep_byte (by exact hcr) (by exact hp), takeByte_waitStart (by exact hst)]
  exact ⟨fun hb => by subst hb; rfl, fun hb => congrArg _ (State.startByte_other hb _)⟩

/-- Settles O42: the append is in range under the invariant, and each verdict is one branch. -/
theorem waitDataAppendsAndClassifies : Obligations.WaitDataAppendsAndClassifies := by
  intro s rest b port hi hsch hcr hst hp
  obtain ⟨hc, -, -⟩ := (State.inv_iff s).mp hi
  obtain ⟨-, hroom, hk, hn⟩ := waitData_of_inv hi hst
  obtain ⟨hpend, hcause⟩ := s.noEvent_iff.mp hn
  rw [step_input hc hsch (.inr hst), inputStep_byte (by exact hcr) (by exact hp),
    takeByte_waitData (by exact hst), dataByte_eq (by exact hroom)]
  refine ⟨fun hv => ?_, fun hv => ?_, fun hv => ?_, fun kd hv => ?_⟩ <;> simp only [hv]
  -- what is left is Invalid: the latches that WAIT_START clears hold no value before either
  simp [State.enterWaitStart, hk, hpend, hcause]

/-! ## ARB's move in DELIVER and TRANSPORT_ERROR (R149, R153) -/

namespace State

theorem evqRoom_iff (s : State) :
    s.evqRoom = true ↔ s.cfg.evqCap = none ∨ ∃ m, s.cfg.evqCap = some m ∧ s.evq.length < m :=
  room_iff _ _

theorem evqRoom_of_full {s : State} (h : s.cfg.evqCap = some s.evq.length) : s.evqRoom = false := by
  simp [evqRoom, room, h]

/-- Within the capacity, no room is a full `evq`, R29. -/
theorem evqRoom_eq_false_iff {s : State} (h : withinCap s.cfg.evqCap s.evq.length = true) :
    s.evqRoom = false ↔ s.cfg.evqCap = some s.evq.length := by
  refine ⟨fun hr => ?_, evqRoom_of_full⟩
  cases hcap : s.cfg.evqCap with
  | none => simp [evqRoom, room, hcap] at hr
  | some m =>
    simp only [evqRoom, room, withinCap, hcap, decide_eq_false_iff_not, decide_eq_true_eq] at hr h
    exact congrArg some (by omega)

end State

/-- R149 and R153 with an event pending, by whether `evq` has room for it. -/
theorem emitPending_of_pend {s : State} {e : Event} (hp : s.pend = some e) (done : State → State) :
    (s.cfg.evqCap = some s.evq.length → emitPending done s = .next s) ∧
    ((s.cfg.evqCap = none ∨ ∃ m, s.cfg.evqCap = some m ∧ s.evq.length < m) →
      emitPending done s = .next (done (State.emit e s))) :=
  ⟨fun hfull => by simp [emitPending, State.evqRoom_of_full hfull],
    fun hroom => by simp [emitPending, (State.evqRoom_iff s).mpr hroom, hp]⟩

/-- Settles O44: DELIVER moves the pending event and goes on to WAIT_START. -/
theorem deliverWaitsForRoom : Obligations.DeliverWaitsForRoom := by
  intro s rest e hc hsch hst hp
  rw [step_arb hc hsch, arbMove_deliver (by exact hst)]
  exact emitPending_of_pend (s := { s with sched := rest }) hp State.enterWaitStart

/-- Settles O45: TRANSPORT_ERROR moves its event and goes on to STOPPED, where no cancellation is pending. -/
theorem transportErrorIsReportedOnce : Obligations.TransportErrorIsReportedOnce := by
  intro s rest e hc hsch hst hp
  rw [step_arb hc hsch, arbMove_error (by exact hst)]
  exact emitPending_of_pend (s := { s with sched := rest }) hp State.enterStopped

/-! ## Enabled steps are the rows of R157 (R140, R141, R157) -/

/-- Settles O52: what ARB's move can do is a row, or nothing where no step is enabled. -/
theorem arbStepsFollowTheTransitionTable : Obligations.ArbStepsFollowTheTransitionTable := by
  intro s rest t hi hsch hen h
  obtain ⟨hc, -, -⟩ := (State.inv_iff s).mp hi
  rw [step_arb hc hsch] at h
  rcases arbMove_result h with hrow | ⟨hdis, -⟩
  · exact hrow
  · exact absurd hdis (by simp [hen])

/-- A row's state on the left has an enabled step, R140. -/
theorem Transition.arbEnabled {s t : State} (h : Transition s t) : s.arbEnabled = true := by
  cases h with
  | cancel hst hc => rcases hst with hst | hst <;> simp [State.arbEnabled, hst, hc]
  | rxFail rest hst hc hp => rcases hst with hst | hst <;> simp [State.arbEnabled, hst, hp]
  | discard _ _ hst _ hp | startMarker _ hst _ hp | incomplete _ _ hst _ hp | invalid _ _ hst _ hp
  | badChecksum _ _ hst _ hp | valid _ _ _ hst _ hp => simp [State.arbEnabled, hst, hp]
  | nakOk hst | nakFail _ _ hst | readToken hst | writeToken hst | dataOk _ _ hst | dataFail _ _ _ hst
  | serveReadOk hst | serveReadFail _ _ hst | serveWriteOk hst | serveWriteFail _ _ hst =>
    simp [State.arbEnabled, hst]
  | deliver _ hst hr | report _ hst hr => simp [State.arbEnabled, hst, hr]

/-- Every row changes the state: it leaves the arbiter state, or takes the head of the RX port. -/
theorem Transition.ne {s t : State} (h : Transition s t) : t ≠ s := by
  intro heq
  have hstate := congrArg State.state heq
  have hport := congrArg State.rxPort heq
  cases h with
  | cancel hst | rxFail _ hst => rcases hst with hst | hst <;> simp [hst] at hstate
  | discard _ _ _ _ hp | incomplete _ _ _ _ hp => simp [hp] at hport
  | startMarker _ hst | invalid _ _ hst | badChecksum _ _ hst | valid _ _ _ hst | nakOk hst | nakFail _ _ hst
  | readToken hst | writeToken hst | dataOk _ _ hst | dataFail _ _ _ hst | deliver _ hst | serveReadOk hst
  | serveReadFail _ _ hst | serveWriteOk hst | serveWriteFail _ _ hst | report _ hst =>
    simp [State.sentFail, hst] at hstate

/-- ARB's move holds exactly where no step is enabled, as every row changes the state. -/
theorem arbMove_holds_iff {s : State} (hi : s.inv = true) : arbMove s = .next s ↔ s.arbEnabled = false := by
  obtain ⟨t, ht⟩ := arbMove_answers hi
  rw [ht, Host.Outcome.next.injEq]
  rcases arbMove_result ht with hrow | ⟨hdis, rfl⟩
  · simp [hrow.ne, hrow.arbEnabled]
  · simp [hdis]

/-- R140's states without an enabled step, one by one. -/
theorem arbEnabled_eq_false_iff {s : State} (h : State.withinCap s.cfg.evqCap s.evq.length = true) :
    s.arbEnabled = false ↔
      s.state = .stopped ∨
      ((s.state = .waitStart ∨ s.state = .waitData) ∧ s.cancelReq = false ∧ s.rxPort = []) ∨
      ((s.state = .deliver ∨ s.state = .transportError) ∧ s.cfg.evqCap = some s.evq.length) := by
  cases hst : s.state with
  | waitStart | waitData => simp [State.arbEnabled, hst]
  | deliver | transportError => simp [State.arbEnabled, hst, State.evqRoom_eq_false_iff h]
  | okMessage | crcFailure | readTokenReceived | writeTokenReceived | stopped => simp [State.arbEnabled, hst]

/-- Settles O46: ARB's move holds exactly where R140 enables no step. -/
theorem arbMovesExactlyWhenEnabled : Obligations.ArbMovesExactlyWhenEnabled := by
  intro s rest hi hsch
  obtain ⟨hc, hs, -⟩ := (State.inv_iff s).mp hi
  obtain ⟨-, -, -, hcap⟩ := s.storageWf_iff.mp hs
  rw [step_arb hc hsch]
  exact (arbMove_holds_iff (s := { s with sched := rest }) hi).trans (arbEnabled_eq_false_iff (by exact hcap))

/-! ## The TX port and STOPPED (R141, R155) -/

/-- A row writes the word that R155 names for its state, or nothing. -/
theorem Transition.txTrace_cases {s t : State} (h : Transition s t) :
    t.txTrace = s.txTrace ∨
    ∃ w, ((s.state = .crcFailure ∧ w = [0x15]) ∨
      (s.state = .okMessage ∧ w = [0x06] ∧ s.k ≠ some .readToken ∧ s.k ≠ some .writeToken) ∨
      (s.state = .readTokenReceived ∧ w = s.rdq.headD [0x06]) ∨
      (s.state = .writeTokenReceived ∧ w = s.wrq.headD [0x06])) ∧ Writes w s t := by
  cases h with
  | nakOk hst => exact .inr ⟨_, .inl ⟨hst, rfl⟩, writes_of_ok rfl⟩
  | nakFail n rest hst ha => exact .inr ⟨_, .inl ⟨hst, rfl⟩, writes_of_fail ha rfl⟩
  | dataOk d f hst hk =>
    exact .inr ⟨_, .inr (.inl ⟨hst, rfl, by cases d <;> simp [hk, DataKind.kind]⟩), writes_of_ok rfl⟩
  | dataFail d n rest hst hk ha =>
    exact .inr ⟨_, .inr (.inl ⟨hst, rfl, by cases d <;> simp [hk, DataKind.kind]⟩), writes_of_fail ha rfl⟩
  | serveReadOk hst => exact .inr ⟨_, .inr (.inr (.inl ⟨hst, rfl⟩)), writes_of_ok rfl⟩
  | serveReadFail n rest hst ha => exact .inr ⟨_, .inr (.inr (.inl ⟨hst, rfl⟩)), writes_of_fail ha rfl⟩
  | serveWriteOk hst => exact .inr ⟨_, .inr (.inr (.inr ⟨hst, rfl⟩)), writes_of_ok rfl⟩
  | serveWriteFail n rest hst ha => exact .inr ⟨_, .inr (.inr (.inr ⟨hst, rfl⟩)), writes_of_fail ha rfl⟩
  | _ => exact .inl rfl

theorem exec_host_txTrace {i : Instr} {s t : State} (hi : i.isHost = true) (h : exec i s = .next t) :
    t.txTrace = s.txTrace := by
  rcases exec_host_cases hi s with ⟨_, _, he⟩ | ⟨-, -, he⟩ | ⟨-, -, he⟩ | ⟨_, -, -, -, he⟩ |
    ⟨_, -, -, -, he⟩ | ⟨_, _, -, -, he⟩ <;> cases he.symm.trans h <;> rfl

theorem devStep_txTrace (d : DevMove) (s : State) : (State.devStep d s).txTrace = s.txTrace := by
  cases d <;> rfl

/-- Settles O54: HOST, LSN and DEV leave the trace, and ARB's rows write it as `Transition.txTrace_cases` says. -/
theorem transmissionDiscipline : Obligations.TransmissionDiscipline := by
  intro s t h
  obtain ⟨-, ⟨-, rfl⟩ | ⟨hcw, f, rest, -, he⟩ | ⟨d, rest, -, rfl⟩ | ⟨rest, hsch, he⟩⟩ := step_next_cases h
  · exact .inl rfl
  · exact .inl (exec_host_txTrace (s := { s with sched := rest }) (decodeHost_isHost hcw f) he)
  · exact .inl (devStep_txTrace d _)
  · rcases arbMove_result he with hrow | ⟨-, rfl⟩
    · exact hrow.txTrace_cases.imp_right fun ⟨w, hw, p, hp⟩ => ⟨⟨rest, hsch⟩, w, p, hw, hp⟩
    · exact .inl rfl

/-- CONNECT is the one host command that writes the arbiter state, R181. -/
theorem exec_host_state {i : Instr} {s t : State} (hi : i.isHost = true) (h : exec i s = .next t) :
    t.state = s.state ∨ i = .connect := by
  rcases exec_host_cases hi s with ⟨_, _, he⟩ | ⟨hcon, -, he⟩ | ⟨-, -, he⟩ | ⟨_, -, -, -, he⟩ |
    ⟨_, -, -, -, he⟩ | ⟨_, _, -, -, he⟩ <;> cases he.symm.trans h
  case inr.inl => exact .inr hcon
  all_goals exact .inl rfl

theorem devStep_state (d : DevMove) (s : State) : (State.devStep d s).state = s.state := by
  cases d <;> rfl

/-- Settles O57: in STOPPED no other move writes the arbiter state. -/
theorem onlyConnectLeavesStopped : Obligations.OnlyConnectLeavesStopped := by
  intro s t h hst hne
  obtain ⟨-, ⟨-, rfl⟩ | ⟨hcw, f, rest, hsch, he⟩ | ⟨d, rest, -, rfl⟩ | ⟨rest, -, he⟩⟩ := step_next_cases h
  · exact absurd hst hne
  · rcases exec_host_state (decodeHost_isHost hcw f) he with hsame | hcon
    · exact absurd (hsame.trans hst) hne
    · exact ⟨hcw, f, rest, hsch, hcon⟩
  · exact absurd ((devStep_state d { s with sched := rest }).trans hst) hne
  · rw [arbMove_stopped (by exact hst)] at he
    cases he
    exact absurd hst hne

end Sys2Proof.Machine
end

section
/-! PROOFS. The family 42_queues_and_connector.md: the dispatch of host command words (R180), the host commands one
by one (R181 to R188) with the STATUS view of R31, and what they leave unchanged. -/

namespace Sys2Proof

/-! ## Dispatch on OP (R84, R85, R180) -/

theorem hcwIllegal_iff (h : Hcw) :
    hcwIllegal h = true ↔ hcwReserved h ≠ 0 ∨ hcwOp h = 0 ∨ 9 ≤ (hcwOp h).toNat := by
  simp [hcwIllegal, or_assoc]

theorem decodeHost_of_illegal {h : Hcw} (hbad : hcwIllegal h = true) (frame : Bytes) :
    decodeHost h frame = .reservedOp h :=
  if_pos hbad

/-- A word with the reserved field 0 and one of the eight commands' OP is none of those R180 rejects. -/
theorem hcwIllegal_eq_false {h : Hcw} {op : BitVec 4} (hr : hcwReserved h = 0) (hop : hcwOp h = op) (h0 : op ≠ 0)
    (h9 : op.toNat < 9) : hcwIllegal h = false := by
  rw [Bool.eq_false_iff, ne_eq, hcwIllegal_iff, hop]
  rintro (hres | hzero | hhigh)
  · exact hres hr
  · exact h0 hzero
  · omega

/-- Settles O3: R180's test is read off the bits, and a word that passes it goes to its command by OP alone. -/
theorem hostCommandDispatch : Obligations.HostCommandDispatch := by
  intro h frame
  refine ⟨fun hbad => ⟨decodeHost_of_illegal ((hcwIllegal_iff h).mpr hbad) frame, fun _ => rfl⟩, fun hr => ?_⟩
  refine ⟨?_, ?_, ?_, ?_, ?_, ?_, ?_, ?_⟩
  all_goals
    intro hop
    have hok := hcwIllegal_eq_false hr hop (by decide) (by decide)
    rw [decodeHost, hok, hcwOp, hop]
    rfl

namespace Machine

open State

/-! ## CONNECT and DISCONNECT (R181, R182) -/

/-- Settles O21: the two branches of R181's test of the arbiter state. -/
theorem connectOnlyFromStopped : Obligations.ConnectOnlyFromStopped :=
  fun _ => ⟨fun hst => if_pos hst, fun hne => if_neg hne⟩

/-- Settles O22: the two branches of R182's test of the arbiter state. -/
theorem disconnectOnlySetsCancelReq : Obligations.DisconnectOnlySetsCancelReq :=
  fun _ => ⟨fun hst => if_pos hst, fun hne => if_neg hne⟩

/-! ## ENQ_READ and ENQ_WRITE (R183, R184) -/

namespace State

theorem frameOk_iff (c : Config) (f : Bytes) : frameOk c f = true ↔ 1 ≤ f.length ∧ f.length ≤ c.frameMax := by
  simp [frameOk]

theorem frameOk_eq_false_iff (c : Config) (f : Bytes) :
    frameOk c f = false ↔ f.length < 1 ∨ c.frameMax < f.length := by
  rw [Bool.eq_false_iff, ne_eq, frameOk_iff]
  omega

theorem room_of_full {cap : Option Nat} {n : Nat} (h : cap = some n) : room cap n = false := by
  simp [room, h]

end State

/-- The shape of R183 and R184: a FRAME for the queue `q`, which `push` appends to. -/
def enqueue (push : Bytes → State → State) (q : List Bytes) (frame : Bytes) (s : State) : Result :=
  if frameOk s.cfg frame then
    if room s.cfg.qCap q.length then .next (respond .ok .none (push frame s))
    else .next (respond .qfull .none s)
  else .next (respond .illegal .none s)

theorem exec_enqRead (f : Bytes) (s : State) : exec (.enqRead f) s = enqueue pushRead s.rdq f s := rfl

theorem exec_enqWrite (f : Bytes) (s : State) : exec (.enqWrite f) s = enqueue pushWrite s.wrq f s := rfl

theorem enqueue_of_bad_length {f : Bytes} {s : State} (h : f.length < 1 ∨ s.cfg.frameMax < f.length)
    (push : Bytes → State → State) (q : List Bytes) : enqueue push q f s = .next (respond .illegal .none s) := by
  simp [enqueue, (frameOk_eq_false_iff s.cfg f).mpr h]

/-- An accepted FRAME, by whether its queue has room. -/
theorem enqueue_of_good_length {f : Bytes} {s : State} (h : 1 ≤ f.length ∧ f.length ≤ s.cfg.frameMax)
    (push : Bytes → State → State) (q : List Bytes) :
    (s.cfg.qCap = some q.length → enqueue push q f s = .next (respond .qfull .none s)) ∧
    ((s.cfg.qCap = none ∨ ∃ m, s.cfg.qCap = some m ∧ q.length < m) →
      enqueue push q f s = .next (respond .ok .none (push f s))) := by
  have hf := (frameOk_iff s.cfg f).mpr h
  constructor
  · intro hfull
    simp [enqueue, hf, room_of_full hfull]
  · intro hroom
    simp [enqueue, hf, (room_iff _ _).mpr hroom]

/-- Settles O23: both commands are `enqueue`, each on its own queue. -/
theorem enqueueAppendsOrRefuses : Obligations.EnqueueAppendsOrRefuses := by
  intro s f
  rw [exec_enqRead, exec_enqWrite]
  refine ⟨fun hbad => ⟨enqueue_of_bad_length hbad _ _, enqueue_of_bad_length hbad _ _⟩, fun h1 hmax => ?_⟩
  obtain ⟨hrFull, hrRoom⟩ := enqueue_of_good_length ⟨h1, hmax⟩ pushRead s.rdq
  obtain ⟨hwFull, hwRoom⟩ := enqueue_of_good_length ⟨h1, hmax⟩ pushWrite s.wrq
  exact ⟨hrFull, hrRoom, hwFull, hwRoom⟩

/-! ## BUILD_READ and BUILD_WRITE (R185, R186) -/

theorem exec_buildWrite_of_width {w : BitVec 2} {n : Nat} (h : wcodeBytes w = some n) (a : RegAddr) (v : Value)
    (sgn : Bool) (s : State) :
    exec (.buildWrite a v w sgn) s = .next (respond .ok (.frame (buildWriteRequest s.cfg a v n sgn)) s) := by
  simp [exec, execBuildWrite, h]

theorem exec_buildWrite_of_no_width {w : BitVec 2} (h : wcodeBytes w = none) (a : RegAddr) (v : Value) (sgn : Bool)
    (s : State) : exec (.buildWrite a v w sgn) s = .next (respond .illegal .none s) := by
  simp [exec, execBuildWrite, h]

/-- Settles O24: R86's width of each WCODE, and none for code 3. -/
theorem buildCommandsReturnTheFrame : Obligations.BuildCommandsReturnTheFrame := fun s a v sgn =>
  ⟨rfl, exec_buildWrite_of_width rfl a v sgn s, exec_buildWrite_of_width rfl a v sgn s,
    exec_buildWrite_of_width rfl a v sgn s, exec_buildWrite_of_no_width rfl a v sgn s⟩

/-! ## STATUS (R31, R187) -/

namespace State

theorem countField_toNat (q : List Bytes) : (countField q).toNat = min q.length 255 := by
  rw [countField, BitVec.toNat_ofNat]
  omega

/-- The STATUS word as a number, from the fields of R31's table. -/
theorem statusWord_toNat (s : State) :
    s.statusWord.toNat =
      s.state.code.toNat + 16 * (s.connected.toNat + 2 * (s.cancelReq.toNat +
        2 * ((decide (s.rdq.length = 0)).toNat + 2 * ((decide (s.wrq.length = 0)).toNat +
          2 * (s.evqNonempty.toNat + 2 * (128 *
            (min s.rdq.length 255 + 256 * min s.wrq.length 255))))))) := by
  have h : s.statusWord.toNat = (countField s.wrq ++ countField s.rdq ++ (0 : BitVec 7) ++
    BitVec.ofBool s.evqNonempty ++ emptyBit s.wrq ++ emptyBit s.rdq ++ BitVec.ofBool s.cancelReq ++
    BitVec.ofBool s.connected ++ s.state.code).toNat := rfl
  rw [h]
  simp only [append_toNat', emptyBit, BitVec.toNat_ofBool, countField_toNat]
  simp

end State

/-- A bit of a word, read off the word as a number. -/
theorem getLsbD_eq_of_toNat {n i : Nat} {w : BitVec n} {b : Bool} (h : w.toNat / 2 ^ i % 2 = b.toNat) :
    w.getLsbD i = b := by
  rw [BitVec.getLsbD, Nat.testBit_eq_decide_div_mod_eq, h]
  cases b <;> rfl

/-- A field of a word, read off the word as a number. -/
theorem extractLsb'_toNat_eq_of_toNat {n lo len m : Nat} {w : BitVec n} (h : w.toNat / 2 ^ lo % 2 ^ len = m) :
    (w.extractLsb' lo len).toNat = m := by
  rw [BitVec.extractLsb'_toNat, Nat.shiftRight_eq_div_pow, h]

/-- Settles O25: each field of the word is a quotient and remainder of the number in `statusWord_toNat`. -/
theorem statusReadsEveryField : Obligations.StatusReadsEveryField := by
  refine ⟨rfl, rfl, rfl, rfl, rfl, rfl, rfl, rfl, rfl, fun s => ⟨s.statusWord, rfl, ?_⟩⟩
  have hcode := s.state.code.isLt
  have hcon := Bool.toNat_le s.connected
  have hcancel := Bool.toNat_le s.cancelReq
  have hrdq := Bool.toNat_le (decide (s.rdq.length = 0))
  have hwrq := Bool.toNat_le (decide (s.wrq.length = 0))
  have hevq := Bool.toNat_le s.evqNonempty
  refine ⟨BitVec.eq_of_toNat_eq (extractLsb'_toNat_eq_of_toNat ?_), getLsbD_eq_of_toNat (b := s.connected) ?_,
    getLsbD_eq_of_toNat ?_, getLsbD_eq_of_toNat ?_, getLsbD_eq_of_toNat ?_,
    getLsbD_eq_of_toNat (b := s.evqNonempty) ?_,
    BitVec.eq_of_toNat_eq (extractLsb'_toNat_eq_of_toNat (m := 0) ?_),
    extractLsb'_toNat_eq_of_toNat ?_, extractLsb'_toNat_eq_of_toNat ?_⟩
  all_goals
    rw [State.statusWord_toNat]
    omega

/-! ## EVENT_POP (R188) -/

theorem exec_eventPop_nil {s : State} (h : s.evq = []) : exec .eventPop s = .next (respond .empty .none s) := by
  simp [exec, execEventPop, h]

theorem exec_eventPop_cons {s : State} {e : Event} {q : List Event} (h : s.evq = e :: q) :
    exec .eventPop s = .next (respond .ok (.event e) { s with evq := q, popped := s.popped ++ [e] }) := by
  simp [exec, execEventPop, h]

/-- Settles O26: by whether `evq` is empty. -/
theorem eventPopTakesTheHead : Obligations.EventPopTakesTheHead :=
  fun _ => ⟨exec_eventPop_nil, fun _ _ => exec_eventPop_cons⟩

/-! ## What host commands leave unchanged (R180 to R188, R191) -/

/-- Settles O28: a host command only answers, or is one of the five that write more, each a field of its own. -/
theorem hostCommandFrame : Obligations.HostCommandFrame := by
  intro i s t hi h
  rcases exec_host_cases hi s with ⟨_, _, he⟩ | ⟨rfl, -, he⟩ | ⟨rfl, -, he⟩ | ⟨_, rfl, -, -, he⟩ |
    ⟨_, rfl, -, -, he⟩ | ⟨_, _, rfl, -, he⟩ <;> cases he.symm.trans h
  all_goals simp

end Machine
end Sys2Proof
end

section
/-! PROOFS. The family 60_exceptions.md: host commands that answer an error (R225), the error class ARB's step detects
(R220, R227), and what the step then does (R221 to R224, R228). -/

namespace Sys2Proof.Machine

open Sys2Proof

/-! ## Host commands that answer an error (R225) -/

/-- Settles O27: a command that writes more than its response answers OK. -/
theorem errorStatusChangesNothing : Obligations.ErrorStatusChangesNothing := by
  intro i s hi
  rcases exec_host_cases hi s with ⟨_, _, he⟩ | ⟨-, -, he⟩ | ⟨-, -, he⟩ | ⟨_, -, -, -, he⟩ |
    ⟨_, -, -, -, he⟩ | ⟨_, _, -, -, he⟩ <;> refine ⟨_, _, he, State.respond_resp .., ?_⟩
  case inl => exact fun _ => rfl
  all_goals exact fun hne => absurd rfl hne

/-! ## The class ARB's next step detects, by its state (R220, R227) -/

namespace State

theorem errorDetected_cancel {s : State} (hst : s.state = .waitStart ∨ s.state = .waitData) (hc : s.cancelReq = true) :
    s.errorDetected = none := by
  rcases hst with hst | hst <;> simp [errorDetected, inputError, hst, hc]

theorem errorDetected_rxFail {s : State} {rest : List RxInput} (hst : s.state = .waitStart ∨ s.state = .waitData)
    (hc : s.cancelReq = false) (hp : s.rxPort = .fail :: rest) : s.errorDetected = some .transport := by
  rcases hst with hst | hst <;> simp [errorDetected, inputError, hst, hc, hp]

theorem errorDetected_startByte {s : State} {b : Byte} {rest : List RxInput} (hst : s.state = .waitStart)
    (hc : s.cancelReq = false) (hp : s.rxPort = .byte b :: rest) :
    s.errorDetected = if b = startIn then none else some .framingNoise := by
  simp [errorDetected, inputError, byteError, hst, hc, hp]

/-- The class a verdict of `classify` shows in WAIT_DATA, R221 and R222. -/
def verdictError : Verdict → Option ErrorClass
  | .invalid => some .framingNoise
  | .checksumFailure => some .checksumFailure
  | .incomplete => none
  | .valid _ => none

theorem errorDetected_dataByte {s : State} {b : Byte} {rest : List RxInput} (hst : s.state = .waitData)
    (hc : s.cancelReq = false) (hp : s.rxPort = .byte b :: rest) :
    s.errorDetected = verdictError (classify s.cfg (s.buf ++ [b])) := by
  simp only [errorDetected, inputError, byteError, hst, hc, hp]
  cases classify s.cfg (s.buf ++ [b]) <;> rfl

theorem errorDetected_token {s : State} (hst : s.state = .okMessage)
    (hk : s.k = some .readToken ∨ s.k = some .writeToken) : s.errorDetected = none := by
  rcases hk with hk | hk <;> simp [errorDetected, hst, hk, FrameKind.toData]

/-- A data frame's step, R223: a TxFail hides what the decode would show (R227 (3)). -/
theorem errorDetected_data {s : State} {d : DataKind} {f : InFrame} (hst : s.state = .okMessage)
    (hk : s.k = some d.kind) (hf : InFrame.parse s.buf = some f) :
    s.errorDetected = if s.nextTxFails then some .transport else decodeErrorClass (decodeFrame s.cfg d f) := by
  simp [errorDetected, hst, hk, hf]

/-- The steps that only write, R146, R150 and R151. -/
theorem errorDetected_write {s : State}
    (hst : s.state = .crcFailure ∨ s.state = .readTokenReceived ∨ s.state = .writeTokenReceived) :
    s.errorDetected = if s.nextTxFails then some .transport else none := by
  rcases hst with hst | hst | hst <;> simp [errorDetected, hst]

theorem errorDetected_delivery {s : State} (hst : s.state = .deliver ∨ s.state = .transportError) :
    s.errorDetected = none := by
  rcases hst with hst | hst <;> simp [errorDetected, hst]

/-- Where ARB's step writes, a TxFail is the one class it can show, R227 (3). -/
theorem errorDetected_txFail {s : State} {n : Nat} {rest : List TxAnswer} {c : ErrorClass}
    (hst : s.state ≠ .waitStart ∧ s.state ≠ .waitData) (ha : s.txAnswers = .fail n :: rest)
    (hd : s.errorDetected = some c) : c = .transport := by
  have hfail : s.nextTxFails = true := by simp [nextTxFails, ha]
  cases hs : s.state with
  | waitStart => exact absurd hs hst.1
  | waitData => exact absurd hs hst.2
  | okMessage =>
    simp only [errorDetected, hs, hfail] at hd
    split at hd <;> cases hd
    rfl
  | crcFailure | readTokenReceived | writeTokenReceived =>
    rw [errorDetected_write (by simp [hs]), if_pos hfail] at hd
    cases hd
    rfl
  | deliver | transportError => simp [errorDetected_delivery, hs] at hd
  | stopped => simp [errorDetected, hs] at hd

/-- A data frame's decode shows an error where its event is DECODE_ERROR of the frame's own kind, R223. -/
theorem decodeErrorClass_decodeFrame {c : Config} {d : DataKind} {f : InFrame} {e : ErrorClass}
    (h : decodeErrorClass (decodeFrame c d f) = some e) :
    e = .decodeRange ∧ decodeFrame c d f = .decodeError d.kind := by
  cases hev : decodeFrame c d f with
  | decodeError kd =>
    obtain ⟨rfl, -⟩ := (decodeErrorsAreExactlyTheShortPayloads c d f kd).1.mp hev
    rw [hev] at h
    cases h
    exact ⟨rfl, rfl⟩
  | _ => simp [hev, decodeErrorClass] at h

theorem errorDetected_of_disabled {s : State} (h : s.arbEnabled = false) : s.errorDetected = none := by
  cases hst : s.state with
  | waitStart | waitData =>
    simp only [arbEnabled, hst, Bool.or_eq_false_iff, Bool.not_eq_false', List.isEmpty_iff] at h
    simp [errorDetected, inputError, hst, h]
  | deliver => exact errorDetected_delivery (.inl hst)
  | transportError => exact errorDetected_delivery (.inr hst)
  | stopped => simp [errorDetected, hst]
  | okMessage | crcFailure | readTokenReceived | writeTokenReceived => simp [arbEnabled, hst] at h

end State

/-! ## What the step does with it (R221 to R224, R228) -/

/-- What is asked of ARB's step from `s` to `t` where it detects an error of a class. -/
def ErrorHandled (s t : State) : ErrorClass → Prop
  | .framingNoise => t.state = .waitStart ∧ t.buf = [] ∧ t.txTrace = s.txTrace ∧ t.evq = s.evq ∧ t.pend = none
  | .checksumFailure => t.state = .crcFailure ∧ t.txTrace = s.txTrace ∧ t.evq = s.evq ∧ t.pend = none
  | .decodeRange => ∃ kd, t.state = .deliver ∧ t.pend = some (.decodeError kd) ∧ s.k = some kd ∧
      t.txTrace = s.txTrace ++ [0x06]
  | .transport => ∃ cause, t.state = .transportError ∧ t.ecause = some cause ∧
      t.pend = some (.transportError cause) ∧ t.buf = [] ∧ t.evq = s.evq

/-- Each row of R157 handles the class that its state on the left shows; most rows show none. -/
theorem Transition.errorHandled {s t : State} {c : ErrorClass} (h : Transition s t) (hi : s.inv = true)
    (hd : s.errorDetected = some c) : ErrorHandled s t c := by
  obtain ⟨-, -, hl⟩ := (State.inv_iff s).mp hi
  cases h with
  | cancel hst hc => simp [State.errorDetected_cancel hst hc] at hd
  | rxFail rest hst hc hp =>
    cases (State.errorDetected_rxFail hst hc hp).symm.trans hd
    exact ⟨.rx, rfl, rfl, rfl, rfl, rfl⟩
  | discard b rest hst hc hp hb =>
    cases ((State.errorDetected_startByte hst hc hp).trans (if_neg hb)).symm.trans hd
    obtain ⟨hbuf, -, hn⟩ := (State.latchesWf_waitStart hst).mp hl
    exact ⟨hst, hbuf, rfl, rfl, ((State.noEvent_iff s).mp hn).1⟩
  | startMarker rest hst hc hp => simp [State.errorDetected_startByte hst hc hp, startIn] at hd
  | incomplete b rest hst hc hp hv | valid b rest _ hst hc hp hv =>
    simp [State.errorDetected_dataByte hst hc hp, hv, State.verdictError] at hd
  | invalid b rest hst hc hp hv =>
    cases (hv ▸ State.errorDetected_dataByte hst hc hp).symm.trans hd
    exact ⟨rfl, rfl, rfl, rfl, rfl⟩
  | badChecksum b rest hst hc hp hv =>
    cases (hv ▸ State.errorDetected_dataByte hst hc hp).symm.trans hd
    obtain ⟨-, -, -, hn⟩ := waitData_of_inv hi hst
    exact ⟨rfl, rfl, rfl, ((State.noEvent_iff s).mp hn).1⟩
  | readToken hst hk | writeToken hst hk => simp [State.errorDetected_token, hst, hk] at hd
  | dataOk d f hst hk hf ha =>
    rw [State.errorDetected_data hst hk hf, ha] at hd
    obtain ⟨rfl, hev⟩ := State.decodeErrorClass_decodeFrame hd
    exact ⟨d.kind, rfl, congrArg some hev, hk, rfl⟩
  | dataFail _ n rest hst _ ha | nakFail n rest hst ha | serveReadFail n rest hst ha | serveWriteFail n rest hst ha =>
    cases State.errorDetected_txFail (by simp [hst]) ha hd
    exact ⟨.tx, rfl, rfl, rfl, rfl, rfl⟩
  | nakOk hst ha | serveReadOk hst ha | serveWriteOk hst ha => simp [State.errorDetected_write, hst, ha] at hd
  | deliver _ hst | report _ hst => simp [State.errorDetected_delivery, hst] at hd

theorem arbMove_errorHandled {s t : State} {c : ErrorClass} (hi : s.inv = true) (h : arbMove s = .next t)
    (hd : s.errorDetected = some c) : ErrorHandled s t c := by
  rcases arbMove_result h with hrow | ⟨hdis, -⟩
  · exact hrow.errorHandled hi hd
  · simp [State.errorDetected_of_disabled hdis] at hd

/-- Settles O59: what ARB's move does with a detected class, in the state with the move taken from the schedule. -/
theorem eachErrorClassIsHandledAsStated : Obligations.EachErrorClassIsHandledAsStated := by
  intro s rest t hi hsch h
  obtain ⟨hc, -, -⟩ := (State.inv_iff s).mp hi
  have handled : ∀ c, s.errorDetected = some c → ErrorHandled s t c := fun _ hd =>
    arbMove_errorHandled (s := { s with sched := rest }) hi (step_arb hc hsch ▸ h) hd
  exact ⟨handled .framingNoise, handled .checksumFailure, handled .decodeRange, handled .transport⟩

end Sys2Proof.Machine
end

section
/-! PROOFS. The family 70_reset_and_hazards.md: the state right after reset (R260), and the bounded chains of ARB's
transient steps (R273). -/

namespace Sys2Proof.Machine

open Sys2Proof

/-! ## Reset (R260, R34) -/

/-- STOPPED is code 8 in bits [3:0], and RDQ_EMPTY and WRQ_EMPTY are the only other bits set. -/
theorem statusWord_resetWith (c : Config) : (State.resetWith c).statusWord = 0x000000C8 := by
  apply BitVec.eq_of_toNat_eq
  rw [State.statusWord_toNat]
  rfl

/-- Settles O48: `resetWith` writes each element's reset value, and the word follows from them. -/
theorem resetState : Obligations.ResetState := fun c =>
  ⟨rfl, rfl, rfl, rfl, rfl, rfl, rfl, rfl, rfl, rfl, rfl, statusWord_resetWith c⟩

/-! ## Chains of transient steps (R140, R273) -/

/-- The most transient steps a chain from an arbiter state can take: none from STOPPED and the input states, one to
deliver or to report, two where a TX write may fail and the failure be reported, three with a token before that. -/
def transientSteps : ArbState → Nat
  | .waitStart | .waitData | .stopped => 0
  | .deliver | .transportError => 1
  | .crcFailure | .readTokenReceived | .writeTokenReceived => 2
  | .okMessage => 3

theorem transientSteps_le (a : ArbState) : transientSteps a ≤ 3 := by
  cases a <;> decide

theorem transientSteps_pos {a : ArbState} (hstart : a ≠ .waitStart) (hdata : a ≠ .waitData) (hstop : a ≠ .stopped) :
    0 < transientSteps a := by
  cases a with
  | waitStart => exact absurd rfl hstart
  | waitData => exact absurd rfl hdata
  | stopped => exact absurd rfl hstop
  | _ => decide

/-- R140: a transient step is enabled, given room in `evq`. -/
theorem arbEnabled_of_transient {s : State} (hpos : 0 < transientSteps s.state) (hroom : s.evqRoom = true) :
    s.arbEnabled = true := by
  cases hst : s.state with
  | waitStart | waitData | stopped => simp [hst, transientSteps] at hpos
  | deliver | transportError => simp [State.arbEnabled, hst, hroom]
  | okMessage | crcFailure | readTokenReceived | writeTokenReceived => simp [State.arbEnabled, hst]

/-- No row writes the schedule: it is `step` that takes the move from it. -/
theorem Transition.sched_eq {s t : State} (h : Transition s t) : t.sched = s.sched := by
  cases h <;> rfl

/-- R157: a row out of a transient state ends the chain, or leaves `evq` as it is and a shorter chain to go. -/
theorem Transition.ends_or_shortens {s t : State} (h : Transition s t) (hpos : 0 < transientSteps s.state) :
    (t.state = .waitStart ∨ t.state = .stopped) ∨
    (t.evq = s.evq ∧ 0 < transientSteps t.state ∧ transientSteps t.state < transientSteps s.state) := by
  cases h with
  | cancel hst | rxFail _ hst => rcases hst with hst | hst <;> simp [hst, transientSteps] at hpos
  | discard _ _ hst | startMarker _ hst | incomplete _ _ hst | invalid _ _ hst | badChecksum _ _ hst
  | valid _ _ _ hst => simp [hst, transientSteps] at hpos
  | nakOk | deliver | serveReadOk | serveWriteOk => exact .inl (.inl rfl)
  | report => exact .inl (.inr rfl)
  | readToken hst | writeToken hst | dataOk _ _ hst | nakFail _ _ hst | dataFail _ _ _ hst
  | serveReadFail _ _ hst | serveWriteFail _ _ hst =>
    exact .inr ⟨rfl, by simp [State.sentFail, transientSteps], by simp [State.sentFail, transientSteps, hst]⟩

/-- From the invariant, ARB's move with an enabled step is a row of R157 that keeps the invariant. -/
theorem step_arb_of_enabled {s : State} {rest : List Move} (hi : s.inv = true) (hsch : s.sched = .arb :: rest)
    (hen : s.arbEnabled = true) :
    ∃ t, step s = .next t ∧ t.inv = true ∧ Transition { s with sched := rest } t := by
  obtain ⟨t, ht, hit⟩ := step_keeps_inv hi
  exact ⟨t, ht, hit, arbStepsFollowTheTransitionTable s rest t hi hsch hen ht⟩

/-- R273, by induction on the moves scheduled: each takes a step, and the chain from there is shorter. -/
theorem transientChain_ends (n : Nat) {s : State} (hi : s.inv = true) (hroom : s.evqRoom = true)
    (hsch : s.sched = List.replicate n .arb) (hpos : 0 < transientSteps s.state) (hle : transientSteps s.state ≤ n) :
    ∃ k t, k ≤ n ∧ Sys2Proof.core.run k s = .next t ∧ (t.state = .waitStart ∨ t.state = .stopped) := by
  induction n generalizing s with
  | zero => omega
  | succ n ih =>
    obtain ⟨u, hstep, hu, hrow⟩ := step_arb_of_enabled hi hsch (arbEnabled_of_transient hpos hroom)
    rcases hrow.ends_or_shortens hpos with hend | ⟨hevq, hpos', hlt⟩
    · exact ⟨1, u, by omega, run_next hstep, hend⟩
    · have hroom' : u.evqRoom = true := by
        rw [State.evqRoom, hrow.cfg_eq, hevq]
        exact hroom
      obtain ⟨k, t, hk, hrun, hend⟩ := ih hu hroom' hrow.sched_eq hpos' (Nat.le_of_lt_succ (hlt.trans_le hle))
      exact ⟨k + 1, t, by omega, (run_next hstep).trans hrun, hend⟩

/-- Settles O60: a chain has at most three transient steps, one fewer than the moves scheduled. -/
theorem transientChainsFinish : Obligations.TransientChainsFinish := by
  intro s hi hroom hsch hstart hdata hstop
  exact transientChain_ends 4 hi hroom hsch (transientSteps_pos hstart hdata hstop)
    ((transientSteps_le s.state).trans (by decide))

end Sys2Proof.Machine
end
